-- ==== Sys2Proof/Word.lean ====
section
/-! DEFINITION. The word types of the CHIP-8 core: what the spec treats as bits (00_scope R8, R9). -/

namespace Sys2Proof

/-- A general register, a memory byte, a timer, the immediate `kk`: 8 bits, unsigned (R5 `XLEN`, R8). -/
abbrev Byte := BitVec 8

/-- `PC`, `I`, a stack entry, an instruction word: 16 bits (R5 `PC_WIDTH`, `I_WIDTH`, `ILEN`). -/
abbrev Word := BitVec 16

/-- The immediate `nnn`: 12 bits (R91). -/
abbrev Imm12 := BitVec 12

/-- A 4-bit field of an instruction word (R12 "nibble"). -/
abbrev Nibble := BitVec 4

/-- The number of a general register, 0x0 to 0xF (R21). -/
abbrev RegIdx := Fin 16

/-- The number of a logical key, 0x0 to 0xF (R30). -/
abbrev KeyIdx := Fin 16

end Sys2Proof
end

