-- ==== Sys2Proof/Config.lean ====
section
/-! DEFINITION. What is fixed for the machine: the fixed parameters of 00_scope R5, the quirk parameters of R6 with
their defaults, and of the open parameters of R7 the random byte, a free value, and the type of `FONT`, an input of
reset. The default font bytes (R62) are in Machine/Ops.lean. -/

namespace Sys2Proof

namespace Config

/-- `MEM_SIZE`: bytes of memory (R5). -/
abbrev memSize : Nat := 4096

/-- `PROG_BASE`: first program byte and reset value of `PC` (R5). -/
abbrev progBase : Nat := 0x200

/-- `ROM_MAX`: the largest program image in bytes (R5). -/
abbrev romMax : Nat := 3584

/-- `FONT_BASE`: first byte of the font region (R5). -/
abbrev fontBase : Nat := 0x050

/-- `FONT_SIZE`: bytes of the font region (R5). -/
abbrev fontSize : Nat := 80

/-- `GLYPH_SIZE`: bytes per glyph (R5). -/
abbrev glyphSize : Nat := 5

/-- The random byte of `Cxkk`, as a FREE VALUE: draw number `n` is `rnd n`, and nothing is known of it (R7, R171:
"a free draw, any value 0..255"; assumption 2). -/
opaque rnd : Nat → Byte

end Config

/-- The parameter `FONT`: the 80 bytes that reset copies into the font region (R7; 10_state R37; 70_reset_and_hazards
R293). Any 80 bytes are one (assumption 6). -/
abbrev Font := Vector Byte Config.fontSize

/-- The values of `Q_SHIFT_SRC`: which register `8xy6` and `8xyE` shift (R6, R174). -/
inductive ShiftSrc where
  | vx
  | vy
deriving DecidableEq, Repr

/-- The three quirk parameters of R6: inputs latched at reset, constant until the next (R35, R290). -/
structure Quirks where
  /-- `Q_SHIFT_SRC` (R174). -/
  shiftSrc : ShiftSrc
  /-- `Q_FX1E_VF`: whether `Fx1E` writes `VF` (R191). -/
  fx1eVf : Bool
  /-- `Q_DRAW_VWRAP`: whether `Dxyn` wraps rows beyond row 31 instead of clipping them (R214). -/
  drawVwrap : Bool
deriving DecidableEq, Repr

/-- The default quirks (R6). -/
def Quirks.default : Quirks := ⟨.vx, false, false⟩

end Sys2Proof
end

