-- ==== Sys2Proof/Syntax.lean ====
section
/-! DEFINITION. The instruction set: one constructor per row of the opcode table (30_encoding R95). The types of the
operands carry their ranges (R93): a register number is below 16, `kk` has 8 bits, `nnn` 12 and `n` 4. -/

namespace Sys2Proof

/-- The 34 instructions of R95, in the table's order, each with the fields its pattern names (R91). -/
inductive Instr where
  /-- `00E0` -/
  | cls
  /-- `00EE` -/
  | ret
  /-- `1nnn` -/
  | jp (nnn : Imm12)
  /-- `2nnn` -/
  | call (nnn : Imm12)
  /-- `3xkk` -/
  | seImm (x : RegIdx) (kk : Byte)
  /-- `4xkk` -/
  | sneImm (x : RegIdx) (kk : Byte)
  /-- `5xy0` -/
  | seReg (x y : RegIdx)
  /-- `6xkk` -/
  | ldImm (x : RegIdx) (kk : Byte)
  /-- `7xkk` -/
  | addImm (x : RegIdx) (kk : Byte)
  /-- `8xy0` -/
  | ldReg (x y : RegIdx)
  /-- `8xy1` -/
  | orReg (x y : RegIdx)
  /-- `8xy2` -/
  | andReg (x y : RegIdx)
  /-- `8xy3` -/
  | xorReg (x y : RegIdx)
  /-- `8xy4` -/
  | addReg (x y : RegIdx)
  /-- `8xy5` -/
  | subReg (x y : RegIdx)
  /-- `8xy6` -/
  | shr (x y : RegIdx)
  /-- `8xy7` -/
  | subnReg (x y : RegIdx)
  /-- `8xyE` -/
  | shl (x y : RegIdx)
  /-- `9xy0` -/
  | sneReg (x y : RegIdx)
  /-- `Annn` -/
  | ldI (nnn : Imm12)
  /-- `Bnnn` -/
  | jpV0 (nnn : Imm12)
  /-- `Cxkk` -/
  | rnd (x : RegIdx) (kk : Byte)
  /-- `Dxyn` -/
  | drw (x y : RegIdx) (n : Nibble)
  /-- `Ex9E` -/
  | skp (x : RegIdx)
  /-- `ExA1` -/
  | sknp (x : RegIdx)
  /-- `Fx07` -/
  | ldVxDt (x : RegIdx)
  /-- `Fx0A` -/
  | ldVxK (x : RegIdx)
  /-- `Fx15` -/
  | ldDtVx (x : RegIdx)
  /-- `Fx18` -/
  | ldStVx (x : RegIdx)
  /-- `Fx1E` -/
  | addIVx (x : RegIdx)
  /-- `Fx29` -/
  | ldFVx (x : RegIdx)
  /-- `Fx33` -/
  | ldBVx (x : RegIdx)
  /-- `Fx55` -/
  | stRegs (x : RegIdx)
  /-- `Fx65` -/
  | ldRegs (x : RegIdx)
deriving DecidableEq, Repr

end Sys2Proof
end

