-- ==== Sys2Proof/WellFormed.lean ====
section
/-! DEFINITION. What is well formed before the machine sees it: an instruction WORD (it matches a row of the match and
mask table of 30_encoding R95) and a ROM image (it fits, 70_reset_and_hazards R291). An `Instr` needs no check of its
own: the types of its operands carry every range the encoding has (assumption 19). -/

namespace Sys2Proof

/-- A row of R95: a word `iw` is the row's instruction iff `(iw & mask) == match`. -/
structure OpcodeRow where
  mnemonic : String
  matchBits : Word
  mask : Word
deriving DecidableEq, Repr

/-- Rows of the families 0 to 7 (R95). -/
def opcodeRowsLow : List OpcodeRow :=
  [⟨"CLS", 0x00E0, 0xFFFF⟩, ⟨"RET", 0x00EE, 0xFFFF⟩, ⟨"JP_nnn", 0x1000, 0xF000⟩, ⟨"CALL_nnn", 0x2000, 0xF000⟩,
   ⟨"SE_Vx__kk", 0x3000, 0xF000⟩, ⟨"SNE_Vx__kk", 0x4000, 0xF000⟩, ⟨"SE_Vx__Vy", 0x5000, 0xF00F⟩,
   ⟨"LD_Vx__kk", 0x6000, 0xF000⟩, ⟨"ADD_Vx__kk", 0x7000, 0xF000⟩]

/-- Rows of the families 8 to D (R95). -/
def opcodeRowsMid : List OpcodeRow :=
  [⟨"LD_Vx__Vy", 0x8000, 0xF00F⟩, ⟨"OR_Vx__Vy", 0x8001, 0xF00F⟩, ⟨"AND_Vx__Vy", 0x8002, 0xF00F⟩,
   ⟨"XOR_Vx__Vy", 0x8003, 0xF00F⟩, ⟨"ADD_Vx__Vy", 0x8004, 0xF00F⟩, ⟨"SUB_Vx__Vy", 0x8005, 0xF00F⟩,
   ⟨"SHR_Vx__Vy", 0x8006, 0xF00F⟩, ⟨"SUBN_Vx__Vy", 0x8007, 0xF00F⟩, ⟨"SHL_Vx__Vy", 0x800E, 0xF00F⟩,
   ⟨"SNE_Vx__Vy", 0x9000, 0xF00F⟩, ⟨"LD_I__nnn", 0xA000, 0xF000⟩, ⟨"JP_V0__nnn", 0xB000, 0xF000⟩,
   ⟨"RND_Vx__kk", 0xC000, 0xF000⟩, ⟨"DRW_Vx__Vy__n", 0xD000, 0xF000⟩]

/-- Rows of the families E and F (R95). -/
def opcodeRowsHigh : List OpcodeRow :=
  [⟨"SKP_Vx", 0xE09E, 0xF0FF⟩, ⟨"SKNP_Vx", 0xE0A1, 0xF0FF⟩, ⟨"LD_Vx__DT", 0xF007, 0xF0FF⟩,
   ⟨"LD_Vx__K", 0xF00A, 0xF0FF⟩, ⟨"LD_DT__Vx", 0xF015, 0xF0FF⟩, ⟨"LD_ST__Vx", 0xF018, 0xF0FF⟩,
   ⟨"ADD_I__Vx", 0xF01E, 0xF0FF⟩, ⟨"LD_F__Vx", 0xF029, 0xF0FF⟩, ⟨"LD_B__Vx", 0xF033, 0xF0FF⟩,
   ⟨"LD__I___Vx", 0xF055, 0xF0FF⟩, ⟨"LD_Vx___I", 0xF065, 0xF0FF⟩]

/-- The 34 rows of R95. -/
def opcodeRows : List OpcodeRow := opcodeRowsLow ++ opcodeRowsMid ++ opcodeRowsHigh

/-- Whether the word is the row's instruction (R95). -/
def OpcodeRow.accepts (r : OpcodeRow) (iw : Word) : Bool := (iw &&& r.mask) == r.matchBits

/-- Whether the word is one of the 34 instructions; every other word is illegal (R96, R103). -/
def legalWord (iw : Word) : Bool := opcodeRows.any (·.accepts iw)

/-- The mnemonic of an instruction's row of R95, in the spelling of opcode_table.json. -/
def Instr.mnemonic : Instr → String
  | .cls => "CLS"
  | .ret => "RET"
  | .jp _ => "JP_nnn"
  | .call _ => "CALL_nnn"
  | .seImm _ _ => "SE_Vx__kk"
  | .sneImm _ _ => "SNE_Vx__kk"
  | .seReg _ _ => "SE_Vx__Vy"
  | .ldImm _ _ => "LD_Vx__kk"
  | .addImm _ _ => "ADD_Vx__kk"
  | .ldReg _ _ => "LD_Vx__Vy"
  | .orReg _ _ => "OR_Vx__Vy"
  | .andReg _ _ => "AND_Vx__Vy"
  | .xorReg _ _ => "XOR_Vx__Vy"
  | .addReg _ _ => "ADD_Vx__Vy"
  | .subReg _ _ => "SUB_Vx__Vy"
  | .shr _ _ => "SHR_Vx__Vy"
  | .subnReg _ _ => "SUBN_Vx__Vy"
  | .shl _ _ => "SHL_Vx__Vy"
  | .sneReg _ _ => "SNE_Vx__Vy"
  | .ldI _ => "LD_I__nnn"
  | .jpV0 _ => "JP_V0__nnn"
  | .rnd _ _ => "RND_Vx__kk"
  | .drw _ _ _ => "DRW_Vx__Vy__n"
  | .skp _ => "SKP_Vx"
  | .sknp _ => "SKNP_Vx"
  | .ldVxDt _ => "LD_Vx__DT"
  | .ldVxK _ => "LD_Vx__K"
  | .ldDtVx _ => "LD_DT__Vx"
  | .ldStVx _ => "LD_ST__Vx"
  | .addIVx _ => "ADD_I__Vx"
  | .ldFVx _ => "LD_F__Vx"
  | .ldBVx _ => "LD_B__Vx"
  | .stRegs _ => "LD__I___Vx"
  | .ldRegs _ => "LD_Vx___I"

/-- Whether a ROM image fits into memory from `PROG_BASE` on: "length must not exceed `4096 - 0x200` bytes" (R291). -/
def romFits (rom : List Byte) : Bool := rom.length ≤ Config.romMax

end Sys2Proof
end

