-- ==== Sys2Proof/Decode.lean ====
section
/-! DEFINITION. The decoder (30_encoding R91, R94, R103): field extraction, total on every word, then the two-level
dispatch, which names an instruction or rejects the word by the family it is illegal in (R96). After it the encoder,
written from the formats of R92. -/

namespace Sys2Proof

/-- Why a byte sequence is no instruction: the rows of R96, and too few bytes for a word (R90). -/
inductive DecodeReject where
  /-- `0nnn` other than 0x00E0 and 0x00EE. -/
  | illegal0
  /-- `5xyN` with N ≠ 0. -/
  | illegal5
  /-- `8xyN` with N in 8..D or F. -/
  | illegal8
  /-- `9xyN` with N ≠ 0. -/
  | illegal9
  /-- `Exkk` with kk not 9E or A1. -/
  | illegalE
  /-- `Fxkk` with kk none of the nine second-level codes. -/
  | illegalF
  /-- Fewer than two bytes. -/
  | truncated
deriving DecidableEq, Repr

/-- The field `opcode` = `iw[15:12]` (R91). -/
def opcodeField (iw : Word) : Nibble := iw.extractLsb' 12 4

/-- A 4-bit field used as a register number: field value `i` selects `V[i]` (R93). -/
def regOfNibble (n : Nibble) : RegIdx := ⟨n.toNat, n.isLt⟩

/-- The field `x` = `iw[11:8]`, a register number (R91). -/
def xField (iw : Word) : RegIdx := regOfNibble (iw.extractLsb' 8 4)

/-- The field `y` = `iw[7:4]`, a register number (R91). -/
def yField (iw : Word) : RegIdx := regOfNibble (iw.extractLsb' 4 4)

/-- The field `kk` = `iw[7:0]` (R91). -/
def kkField (iw : Word) : Byte := iw.extractLsb' 0 8

/-- The field `nnn` = `iw[11:0]` (R91). -/
def nnnField (iw : Word) : Imm12 := iw.extractLsb' 0 12

/-- The field `n` = `iw[3:0]` (R91). -/
def nField (iw : Word) : Nibble := iw.extractLsb' 0 4

/-- Family 0 is matched on the whole word (R94). -/
def decode0 (iw : Word) : Except DecodeReject Instr :=
  if iw = 0x00E0#16 then .ok .cls
  else if iw = 0x00EE#16 then .ok .ret
  else .error .illegal0

/-- The second level of family 8, on `n` (R94). -/
def decode8 (iw : Word) : Except DecodeReject Instr :=
  let x := xField iw
  let y := yField iw
  match (nField iw).toNat with
  | 0x0 => .ok (.ldReg x y)
  | 0x1 => .ok (.orReg x y)
  | 0x2 => .ok (.andReg x y)
  | 0x3 => .ok (.xorReg x y)
  | 0x4 => .ok (.addReg x y)
  | 0x5 => .ok (.subReg x y)
  | 0x6 => .ok (.shr x y)
  | 0x7 => .ok (.subnReg x y)
  | 0xE => .ok (.shl x y)
  | _ => .error .illegal8

/-- The second level of family E, on `kk` (R94). -/
def decodeE (iw : Word) : Except DecodeReject Instr :=
  if kkField iw = 0x9E#8 then .ok (.skp (xField iw))
  else if kkField iw = 0xA1#8 then .ok (.sknp (xField iw))
  else .error .illegalE

/-- The second level of family F, on `kk` (R94). -/
def decodeF (iw : Word) : Except DecodeReject Instr :=
  let x := xField iw
  if kkField iw = 0x07#8 then .ok (.ldVxDt x)
  else if kkField iw = 0x0A#8 then .ok (.ldVxK x)
  else if kkField iw = 0x15#8 then .ok (.ldDtVx x)
  else if kkField iw = 0x18#8 then .ok (.ldStVx x)
  else if kkField iw = 0x1E#8 then .ok (.addIVx x)
  else if kkField iw = 0x29#8 then .ok (.ldFVx x)
  else if kkField iw = 0x33#8 then .ok (.ldBVx x)
  else if kkField iw = 0x55#8 then .ok (.stRegs x)
  else if kkField iw = 0x65#8 then .ok (.ldRegs x)
  else .error .illegalF

/-- The instruction a word is, by the dispatch tree of R94; the first level is on `opcode`. It reads nothing but the
word: no register, mode or quirk changes which instruction a word is (R98, R124). The last arm is family 0xF: the field
has 4 bits. -/
def decode (iw : Word) : Except DecodeReject Instr :=
  match (opcodeField iw).toNat with
  | 0x0 => decode0 iw
  | 0x1 => .ok (.jp (nnnField iw))
  | 0x2 => .ok (.call (nnnField iw))
  | 0x3 => .ok (.seImm (xField iw) (kkField iw))
  | 0x4 => .ok (.sneImm (xField iw) (kkField iw))
  | 0x5 => if nField iw = 0#4 then .ok (.seReg (xField iw) (yField iw)) else .error .illegal5
  | 0x6 => .ok (.ldImm (xField iw) (kkField iw))
  | 0x7 => .ok (.addImm (xField iw) (kkField iw))
  | 0x8 => decode8 iw
  | 0x9 => if nField iw = 0#4 then .ok (.sneReg (xField iw) (yField iw)) else .error .illegal9
  | 0xA => .ok (.ldI (nnnField iw))
  | 0xB => .ok (.jpV0 (nnnField iw))
  | 0xC => .ok (.rnd (xField iw) (kkField iw))
  | 0xD => .ok (.drw (xField iw) (yField iw) (nField iw))
  | 0xE => decodeE iw
  | _ => decodeF iw

/-- The instruction word formed from two consecutive bytes, "high byte first" (R64, R90). -/
def wordOfBytes (hi lo : Byte) : Word := hi ++ lo

/-- The byte of a word that stands at the lower address (R64). -/
def highByte (iw : Word) : Byte := iw.extractLsb' 8 8

/-- The byte of a word that stands at the higher address (R64). -/
def lowByte (iw : Word) : Byte := iw.extractLsb' 0 8

/-- Decoding a byte sequence: the instruction in its first two bytes and the bytes after it (R90). -/
def decodeBytes : List Byte → Except DecodeReject (Instr × List Byte)
  | hi :: lo :: rest =>
    match decode (wordOfBytes hi lo) with
    | .ok i => .ok (i, rest)
    | .error e => .error e
  | _ => .error .truncated

/-- A register number as a 4-bit field (R93). -/
def nibbleOfReg (r : RegIdx) : Nibble := BitVec.ofNat 4 r.val

/-- Format A of R92: `opcode`, `nnn`. -/
def formatA (op : Nibble) (nnn : Imm12) : Word := op ++ nnn

/-- Format XK of R92: `opcode`, `x`, `kk`; format X is the same with `kk` literal. -/
def formatXK (op : Nibble) (x : RegIdx) (kk : Byte) : Word := op ++ (nibbleOfReg x ++ kk : BitVec 12)

/-- Formats XY (`n` literal) and XYN of R92: `opcode`, `x`, `y`, `n`. -/
def formatXYN (op : Nibble) (x y : RegIdx) (n : Nibble) : Word :=
  op ++ (nibbleOfReg x ++ (nibbleOfReg y ++ n : BitVec 8) : BitVec 12)

/-- The instruction's word (R92, R95). -/
def encode : Instr → Word
  | .cls => 0x00E0
  | .ret => 0x00EE
  | .jp nnn => formatA 0x1 nnn
  | .call nnn => formatA 0x2 nnn
  | .seImm x kk => formatXK 0x3 x kk
  | .sneImm x kk => formatXK 0x4 x kk
  | .seReg x y => formatXYN 0x5 x y 0x0
  | .ldImm x kk => formatXK 0x6 x kk
  | .addImm x kk => formatXK 0x7 x kk
  | .ldReg x y => formatXYN 0x8 x y 0x0
  | .orReg x y => formatXYN 0x8 x y 0x1
  | .andReg x y => formatXYN 0x8 x y 0x2
  | .xorReg x y => formatXYN 0x8 x y 0x3
  | .addReg x y => formatXYN 0x8 x y 0x4
  | .subReg x y => formatXYN 0x8 x y 0x5
  | .shr x y => formatXYN 0x8 x y 0x6
  | .subnReg x y => formatXYN 0x8 x y 0x7
  | .shl x y => formatXYN 0x8 x y 0xE
  | .sneReg x y => formatXYN 0x9 x y 0x0
  | .ldI nnn => formatA 0xA nnn
  | .jpV0 nnn => formatA 0xB nnn
  | .rnd x kk => formatXK 0xC x kk
  | .drw x y n => formatXYN 0xD x y n
  | .skp x => formatXK 0xE x 0x9E
  | .sknp x => formatXK 0xE x 0xA1
  | .ldVxDt x => formatXK 0xF x 0x07
  | .ldVxK x => formatXK 0xF x 0x0A
  | .ldDtVx x => formatXK 0xF x 0x15
  | .ldStVx x => formatXK 0xF x 0x18
  | .addIVx x => formatXK 0xF x 0x1E
  | .ldFVx x => formatXK 0xF x 0x29
  | .ldBVx x => formatXK 0xF x 0x33
  | .stRegs x => formatXK 0xF x 0x55
  | .ldRegs x => formatXK 0xF x 0x65

/-- The instruction's two bytes as memory holds them, high byte first (R64). -/
def encodeBytes (i : Instr) : List Byte := [highByte (encode i), lowByte (encode i)]

/-- The word the opcode table's numbering gives: bit 0 is the least significant bit of the one 16-bit word (R91), and
bits above `nbits` are 0. -/
def tableWord (nbits w : Nat) : Word := BitVec.ofNat 16 (w % 2 ^ nbits)

/-- What the decoder reads from an instruction whose bits are `w`, laid out in memory order. -/
def decodeTableWord (nbits w : Nat) : Option Instr :=
  match decodeBytes [highByte (tableWord nbits w), lowByte (tableWord nbits w)] with
  | .ok (i, _) => some i
  | .error _ => none

end Sys2Proof
end

