-- ==== Sys2Proof/Machine/State.lean ====
section
/-! DEFINITION. The state of the machine (10_state R20), the reasons a step can stop, and the state after reset
(10_state R40). -/

namespace Sys2Proof.Machine

/-- Why the machine is halted: codes 1 to 5 of 60_exceptions R250. -/
inductive HaltReason where
  /-- Code 1: an illegal instruction word (R251). -/
  | decodeFault
  /-- Code 2: a call at depth 16 (R252). -/
  | stackOverflow
  /-- Code 3: a return with an empty stack (R253). -/
  | stackUnderflow
  /-- Code 4, not an error: a cycle began with `PC` at or past the end of memory (R255). -/
  | endOfMemory
  /-- Code 5, not an error: the `QUIT` event (R272). -/
  | quit
deriving DecidableEq, Repr

/-- The kinds a fault record can have: the three synchronous exceptions of the core (10_state R33, R250). -/
inductive FaultKind where
  | decodeFault
  | stackOverflow
  | stackUnderflow
deriving DecidableEq, Repr

/-- The fault record (10_state R33): the kind, the address of the faulting instruction, and its word. -/
structure FaultRecord where
  kind : FaultKind
  pc : Word
  iw : Word
deriving DecidableEq, Repr

/-- The machine mode (10_state R32). -/
inductive Mode where
  /-- Each cycle fetches and executes one instruction. -/
  | running
  /-- Entered by `Fx0A`; `r` is the register that will receive the key's index (R34(a)). -/
  | awaitingKey (r : RegIdx)
  /-- Absorbing; only `RESET` leaves it (60_exceptions R258). -/
  | halted (reason : HaltReason)
deriving DecidableEq, Repr

/-- The atomic events of 10_state R38, each one step of one agent. -/
inductive Event where
  /-- `CYCLE`: the execution engine's step (R120). -/
  | cycle
  /-- `KEY(k, p)`: the input latch's step; `pressed` is false for released (R266). -/
  | key (k : KeyIdx) (pressed : Bool)
  /-- `TICK`: the timer clock's step (R263). -/
  | tick
  /-- `QUIT` (R272). -/
  | quit
  /-- `RESET(ROM)`, with the quirk inputs it latches (R290) and the `FONT` it installs (R293). -/
  | reset (rom : List Byte) (quirks : Quirks) (font : Font)
deriving DecidableEq, Repr

/-- Memory: the bytes that differ from the reset contents, by rising address (see `Memory.wf` in Machine/Ops.lean). -/
abbrev Memory := List Host.Cell

/-- The framebuffer: row `y` is a word of 64 cells, the cell of column `x` its bit `x` (10_state R29, assumption 10). -/
abbrev Framebuffer := Vector (BitVec 64) 32

/-- The complete state of the core (10_state R20), the latched quirk inputs (R35, R290), and two fields of the model's
own: `draws` and `inputs` (assumptions 1 and 2). -/
structure State where
  /-- The general registers `V0` to `VF` (R21); `VF` is also the flag output (R22). -/
  V : Vector Byte 16
  /-- The address register (R23). -/
  I : Word
  /-- The program counter (R24). -/
  PC : Word
  /-- The call stack (R25). -/
  stack : Vector Word 16
  /-- The number of occupied stack entries, 0 to 16 (R26). -/
  SP : Fin 17
  /-- The delay timer (R27). -/
  DT : Byte
  /-- The sound timer (R28). -/
  ST : Byte
  /-- The framebuffer (R29). -/
  fb : Framebuffer
  /-- The key latches, true meaning pressed (R30). -/
  keys : Vector Bool 16
  /-- The 4096 bytes of memory (R31). -/
  mem : Memory
  /-- The machine mode (R32). -/
  mode : Mode
  /-- The fault record (R33). -/
  fault : Option FaultRecord
  /-- The quirk inputs as the last reset latched them (R35, R290). -/
  quirks : Quirks
  /-- The model's own: how many random bytes have been drawn (assumption 2). -/
  draws : Nat
  /-- The model's own: the events still to arrive, oldest first; after the last of them only cycles follow
  (assumption 1). -/
  inputs : List Event
deriving DecidableEq, Repr

/-- Why a step stops for good. The core's own faults are next states in mode `Halted` (60_exceptions R257), so only one
reason is left. -/
inductive Fault where
  /-- `LoadFault`, code 6 of R250: a `RESET` event carries a ROM of more than 3584 bytes (R254, R291). Raised by
  `handleEvent`. Safe: the spec gives the core no state after it. -/
  | loadFault
deriving DecidableEq, Repr

/-- Why an instruction has no meaning. -/
inductive Refusal where
  /-- An instruction of the opcode table that the model has not reached. Raised by a refused arm of `exec`; no arm is
  refused. Safe: nothing is said of what follows. -/
  | notModelled (mnemonic : String)
deriving DecidableEq, Repr

/-- The state after `RESET` with an empty ROM, the default quirks and the default font (10_state R40): registers, `I` and timers zero,
`PC` = 0x200, an empty stack, a blank framebuffer, every key released, mode `Running`, no fault, and memory at its reset
contents, which an empty list stands for. The stack entries, which R40 leaves unspecified, are zero (assumption 4). -/
def State.reset : State where
  V := Vector.replicate 16 0#8
  I := 0x0000#16
  PC := 0x0200#16
  stack := Vector.replicate 16 0#16
  SP := 0
  DT := 0#8
  ST := 0#8
  fb := Vector.replicate 32 0#64
  keys := Vector.replicate 16 false
  mem := []
  mode := .running
  fault := none
  quirks := Quirks.default
  draws := 0
  inputs := []

end Sys2Proof.Machine
end

