-- ==== Sys2Proof/Machine/Ops.lean ====
section
/-! DEFINITION. The named operations over memory, registers, the call stack and the framebuffer that every meaning is
written with, and taking a fault (60_exceptions R257). There is no return from a fault (R258). -/

namespace Sys2Proof.Machine

/-! ### Memory (20_memory R60 to R69) -/

/-- Glyphs 0 to 7 of the default font, 5 bytes each, top row first (R62). -/
def fontLow : List Byte :=
  [0xF0, 0x90, 0x90, 0x90, 0xF0,
   0x20, 0x60, 0x20, 0x20, 0x70,
   0xF0, 0x10, 0xF0, 0x80, 0xF0,
   0xF0, 0x10, 0xF0, 0x10, 0xF0,
   0x90, 0x90, 0xF0, 0x10, 0x10,
   0xF0, 0x80, 0xF0, 0x10, 0xF0,
   0xF0, 0x80, 0xF0, 0x90, 0xF0,
   0xF0, 0x10, 0x20, 0x40, 0x40]

/-- Glyphs 8 to F of the default font (R62). -/
def fontHigh : List Byte :=
  [0xF0, 0x90, 0xF0, 0x90, 0xF0,
   0xF0, 0x90, 0xF0, 0x10, 0xF0,
   0xF0, 0x90, 0xF0, 0x90, 0x90,
   0xE0, 0x90, 0xE0, 0x90, 0xE0,
   0xF0, 0x80, 0x80, 0x80, 0xF0,
   0xE0, 0x90, 0x90, 0x90, 0xE0,
   0xF0, 0x80, 0xF0, 0x80, 0xF0,
   0xF0, 0x80, 0xF0, 0x80, 0x80]

/-- The bytes of the default font (R62; assumption 6). -/
def defaultFontBytes : List Byte := fontLow ++ fontHigh

/-- The default of the parameter `FONT` (R62, 00_scope R7). -/
def defaultFont : Font := ⟨defaultFontBytes.toArray, rfl⟩

/-- What an address reads as when memory lists no entry for it: its content after a reset with an empty ROM and the
default font, which is at 0x050..0x09F, and 0x00 elsewhere (R61; assumption 5). A reset with another font lists the bytes
in which that font differs. -/
def unlistedByte (a : Nat) : Byte :=
  if Config.fontBase ≤ a ∧ a < Config.fontBase + Config.fontSize then defaultFontBytes.getD (a - Config.fontBase) 0#8 else 0#8

/-- The byte memory holds at an address: its entry, or the unlisted content. -/
def Memory.get : Memory → Nat → Byte
  | [], a => unlistedByte a
  | (k, c) :: m, a => if k = a then c else Memory.get m a

/-- Memory with one byte set. Addresses stay in rising order, and setting the unlisted content removes the entry. -/
def Memory.set : Memory → Nat → Byte → Memory
  | [], a, b => if b = unlistedByte a then [] else [(a, b)]
  | (k, c) :: m, a, b =>
    if a < k then (if b = unlistedByte a then (k, c) :: m else (a, b) :: (k, c) :: m)
    else if a = k then (if b = unlistedByte a then m else (a, b) :: m)
    else (k, c) :: Memory.set m a b

/-- Whether every address listed is at least `lo` and below 4096, the addresses rise strictly, and no entry equals the
unlisted content. -/
def Memory.wfFrom : Nat → Memory → Bool
  | _, [] => true
  | lo, (k, c) :: m => decide (lo ≤ k) && decide (k < Config.memSize) && (c != unlistedByte k) && Memory.wfFrom (k + 1) m

/-- The canonical form of memory, which makes equal memories equal lists. -/
def Memory.wf (m : Memory) : Bool := Memory.wfFrom 0 m

/-- An address on the 12-bit address bus: "the bits above bit 11 are dropped" (R63). -/
def wrapAddr (a : Nat) : Nat := a % Config.memSize

/-- `MemRead(a, 1)` = `mem[a mod 4096]` (R63). -/
def State.memRead (s : State) (a : Nat) : Byte := s.mem.get (wrapAddr a)

/-- `MemWrite(a, 1, v)` on a memory: `mem[a mod 4096] <- v` (R63). -/
def Memory.write (m : Memory) (a : Nat) (v : Byte) : Memory := m.set (wrapAddr a) v

/-- Bytes stored one at a time at ascending addresses (R65, R68). -/
def Memory.writeBytes : Memory → Nat → List Byte → Memory
  | m, _, [] => m
  | m, a, b :: bs => Memory.writeBytes (m.write a b) (a + 1) bs

/-- The state with bytes stored at ascending addresses from `a` on. -/
def State.memWriteBytes (s : State) (a : Nat) (bs : List Byte) : State := { s with mem := s.mem.writeBytes a bs }

/-- `MemRead(a, 2)`, used by the fetch alone: the byte at the lower address is bits 15 to 8 (R64). -/
def State.memReadWord (s : State) (a : Nat) : Word := wordOfBytes (s.memRead a) (s.memRead (a + 1))

/-! ### Registers (10_state R21 to R28) -/

/-- `V[r]` (00_scope R9). -/
def State.readV (s : State) (r : RegIdx) : Byte := s.V[r.val]

/-- `V[r] <- b` (00_scope R9). -/
def State.writeV (s : State) (r : RegIdx) (b : Byte) : State := { s with V := s.V.set r.val b }

/-- The number of `VF`, `V[15]` (00_scope R9). -/
abbrev vF : RegIdx := 15

/-- The number of `V0`, the register `Bnnn` names implicitly (R21). -/
abbrev v0 : RegIdx := 0

/-- `I <- a`. -/
def State.setI (s : State) (a : Word) : State := { s with I := a }

/-- `pc <- a`: the value `PC` holds when the instruction commits (00_scope R9). -/
def State.setPC (s : State) (a : Word) : State := { s with PC := a }

/-- `DT <- b`. -/
def State.setDT (s : State) (b : Byte) : State := { s with DT := b }

/-- `ST <- b`. -/
def State.setST (s : State) (b : Byte) : State := { s with ST := b }

/-- `mode <- m`. -/
def State.setMode (s : State) (m : Mode) : State := { s with mode := m }

/-- The framebuffer replaced as a whole. -/
def State.setFb (s : State) (f : Framebuffer) : State := { s with fb := f }

/-- `keys[k] <- p` (60_exceptions R266). -/
def State.setKey (s : State) (k : KeyIdx) (p : Bool) : State := { s with keys := s.keys.set k.val p }

/-- `keys[k]`: whether the key is latched as pressed (10_state R30). -/
def State.keyDown (s : State) (k : KeyIdx) : Bool := s.keys[k.val]

/-- The model's own: one random byte has been used (assumption 2). -/
def State.countDraw (s : State) : State := { s with draws := s.draws + 1 }

/-- The model's own: the events that remain (assumption 1). -/
def State.setInputs (s : State) (es : List Event) : State := { s with inputs := es }

/-! ### The program counter (40_instruction_cycle R123, R126) -/

/-- `pc_next`: the address of the following instruction, computed in 16 bits (R123). -/
def State.pcNext (s : State) : Word := s.PC + 2#16

/-- `pc <- pc_next`, the default end of an instruction (R126). -/
def State.advance (s : State) : State := s.setPC s.pcNext

/-- The end of a skip: `pc <- pc_next + 2` if the condition holds, else `pc <- pc_next` (41_control_flow R148). -/
def State.skipIf (s : State) (c : Bool) : State := s.setPC (if c then s.pcNext + 2#16 else s.pcNext)

/-! ### The call stack (10_state R25, R26) -/

/-- `stack[SP] <- a; SP <- SP + 1`, or nothing when all 16 entries are occupied (R26, 41_control_flow R142). -/
def State.push (s : State) (a : Word) : Option State :=
  if h : s.SP.val < 16 then
    some { s with stack := s.stack.set s.SP.val a, SP := ⟨s.SP.val + 1, by omega⟩ }
  else none

/-- `t = stack[SP - 1]; SP <- SP - 1`: the entry and the state without it, or nothing when the stack is empty. The
popped entry keeps its content (41_control_flow R140). -/
def State.pop (s : State) : Option (Word × State) :=
  if h : 0 < s.SP.val then
    some (s.stack[s.SP.val - 1], { s with SP := ⟨s.SP.val - 1, by omega⟩ })
  else none

/-! ### The framebuffer (10_state R29) -/

/-- `fb[y][x]`. -/
def Framebuffer.cell (f : Framebuffer) (y : Fin 32) (x : Fin 64) : Bool := f[y.val].getLsbD x.val

/-- `fb[y][x] <- fb[y][x] ^ 1` (44_display R211). -/
def Framebuffer.toggle (f : Framebuffer) (y : Fin 32) (x : Fin 64) : Framebuffer :=
  f.set y.val (f[y.val] ^^^ (1#64 <<< x.val))

/-- Every cell 0 (44_display R210). -/
def Framebuffer.blank : Framebuffer := Vector.replicate 32 0#64

/-! ### Faults (60_exceptions R250 to R258) -/

/-- The halt reason of a fault kind: `mode <- Halted(F)` (R257). -/
def FaultKind.reason : FaultKind → HaltReason
  | .decodeFault => .decodeFault
  | .stackOverflow => .stackOverflow
  | .stackUnderflow => .stackUnderflow

/-- Fault entry, R257: none of the instruction's writes takes place, `fault <- (F, pc, iw)`, `mode <- Halted(F)`, and
nothing else changes; `PC` stays the faulting instruction's own address. -/
def State.raise (s : State) (k : FaultKind) (iw : Word) : State :=
  { s with mode := .halted k.reason, fault := some ⟨k, s.PC, iw⟩ }

/-- Whether the mode is `Halted(_)`, in which no event but `RESET` changes anything (R258). -/
def State.isHalted (s : State) : Bool :=
  match s.mode with
  | .halted _ => true
  | _ => false

end Sys2Proof.Machine
end

