-- ==== Sys2Proof/Machine/Operands.lean ====
section
/-! DEFINITION. The operand forms: the implicit memory operand, the key index, the glyph address, the shift source, and
the cell a sprite bit lands on. There are no addressing modes to decode (30_encoding R93, 43_address_memory R196). -/

namespace Sys2Proof.Machine

/-- The address of the memory operand with a given offset, before it is taken modulo 4096 (R196, R63). -/
def State.dataAddr (s : State) (offset : Nat) : Nat := s.I.toNat + offset

/-- The byte at `I + offset` (R196). -/
def State.readAtI (s : State) (offset : Nat) : Byte := s.memRead (s.dataAddr offset)

/-- The state with bytes stored at `I`, `I + 1`, … (R65, R196). -/
def State.storeAtI (s : State) (bs : List Byte) : State := s.memWriteBytes (s.dataAddr 0) bs

/-- `zext_16(nnn)`: a 12-bit immediate as an address (30_encoding R93). -/
def addrOfImm (nnn : Imm12) : Word := nnn.zeroExtend 16

/-- `zext_16(b)`: a register value as an operand of 16-bit arithmetic (41_control_flow R147). -/
def wordOfByte (b : Byte) : Word := b.zeroExtend 16

/-- The key that `Ex9E` and `ExA1` test: the low nibble of `Vx` (45_keys_timers R236). -/
def State.keySelected (s : State) (x : RegIdx) : KeyIdx := regOfNibble ((s.readV x).extractLsb' 0 4)

/-- The key index as `Fx0A` stores it: `zext_8(k)` (60_exceptions R266). -/
def byteOfKey (k : KeyIdx) : Byte := BitVec.ofNat 8 k.val

/-- The value `8xy6` and `8xyE` shift: `Vx`, or `Vy` when `Q_SHIFT_SRC = VY` (42_load_alu R174). -/
def State.shiftOperand (s : State) (x y : RegIdx) : Byte :=
  match s.quirks.shiftSrc with
  | .vx => s.readV x
  | .vy => s.readV y

/-- The address of glyph `b`: `0x050 + 5 * zext_16(b)`, the whole byte being used (43_address_memory R192). -/
def glyphAddr (b : Byte) : Word := BitVec.ofNat 16 Config.fontBase + BitVec.ofNat 16 Config.glyphSize * wordOfByte b

/-- The three decimal digits of a byte, hundreds first (43_address_memory R193). -/
def bcdDigits (b : Byte) : List Byte :=
  [BitVec.ofNat 8 (b.toNat / 100), BitVec.ofNat 8 (b.toNat / 10 % 10), BitVec.ofNat 8 (b.toNat % 10)]

/-- `V[0]` to `V[x]` inclusive (43_address_memory R194). -/
def State.regsUpTo (s : State) (x : RegIdx) : List Byte := s.V.toList.take (x.val + 1)

/-- The state with `V[i] <- MemRead(I + i, 1)` for `i` below `n`, ascending (43_address_memory R195). -/
def State.loadRegsBelow (s : State) : Nat → State
  | 0 => s
  | n + 1 =>
    let t := s.loadRegsBelow n
    if h : n < 16 then t.writeV ⟨n, h⟩ (s.readAtI n) else t

/-- The column of sprite column `c` with origin `vx`: `(vx + c) mod 64` (44_display R214). -/
def spriteColumn (vx c : Nat) : Fin 64 := ⟨(vx + c) % 64, Nat.mod_lt _ (by decide)⟩

/-- The row of sprite row `r` with origin `vy`: `vy + r`, and beyond row 31 either none (clip) or that modulo 32 (wrap)
(44_display R214). -/
def spriteRow (wrap : Bool) (vy r : Nat) : Option (Fin 32) :=
  if h : vy + r < 32 then some ⟨vy + r, h⟩
  else if wrap then some ⟨(vy + r) % 32, Nat.mod_lt _ (by decide)⟩
  else none

end Sys2Proof.Machine
end

