-- ==== Sys2Proof/Machine/Flags.lean ====
section
/-! DEFINITION. The only flag is `VF` (10_state R42): what each flag-writing instruction puts there, and the order of the
result write and the flag write (42_load_alu R172). -/

namespace Sys2Proof.Machine

/-- A flag as `VF` holds it: 0 or 1 (10_state R22). -/
def flagByte (f : Bool) : Byte := if f then 1#8 else 0#8

/-- The carry of `8xy4`: 1 iff the true sum exceeds 255 (R42, R173). -/
def carryFlag (a b : Byte) : Bool := decide (a.toNat + b.toNat > 255)

/-- The not-borrow of `a - b`: 1 iff `a >= b` (R42, R173). -/
def notBorrowFlag (a b : Byte) : Bool := decide (a.toNat ≥ b.toNat)

/-- The bit a right shift moves out: bit 0 (R42, R168). -/
def shiftRightFlag (v : Byte) : Bool := v.getLsbD 0

/-- The bit a left shift moves out: bit 7 (R42, R170). -/
def shiftLeftFlag (v : Byte) : Bool := v.getLsbD 7

/-- The overflow of `Fx1E`: 1 iff `I + Vx > 0xFFF` (R42, R191). -/
def indexOverflowFlag (i : Word) (b : Byte) : Bool := decide (i.toNat + b.toNat > 0xFFF)

/-- `VF <- f`. -/
def State.writeFlag (s : State) (f : Bool) : State := s.writeV vF (flagByte f)

/-- A result and a flag, the operands having been read before: `Vx` is written, then `VF` (R172). -/
def State.writeResultFlag (s : State) (x : RegIdx) (res : Byte) (f : Bool) : State := (s.writeV x res).writeFlag f

end Sys2Proof.Machine
end

