-- ==== Sys2Proof/Machine/AddressMemory.lean ====
section
/-! DEFINITION. The meanings of 43_address_memory: the address register, the decimal store, and the register dump and
load. None changes `I` as a side effect of a transfer (R196). -/

namespace Sys2Proof.Machine

/-- `Annn`, R190: `I <- zext_16(nnn)`. -/
def execLdI (nnn : Imm12) (s : State) : Host.Outcome State Fault Refusal :=
  .next (s.setI (addrOfImm nnn)).advance

/-- `I + zext_16(b)` reduced modulo 4096 (R191). -/
def indexSum (i : Word) (b : Byte) : Word := BitVec.ofNat 16 ((i.toNat + b.toNat) % Config.memSize)

/-- `Fx1E`, R191: `I <- (I + V[x]) mod 4096`; with `Q_FX1E_VF`, `VF` receives whether the sum exceeded 0xFFF. -/
def execAddIVx (x : RegIdx) (s : State) : Host.Outcome State Fault Refusal :=
  let t := s.setI (indexSum s.I (s.readV x))
  .next (if s.quirks.fx1eVf then t.writeFlag (indexOverflowFlag s.I (s.readV x)) else t).advance

/-- `Fx29`, R192: `I <- 0x050 + 5 * V[x]`. -/
def execLdFVx (x : RegIdx) (s : State) : Host.Outcome State Fault Refusal :=
  .next (s.setI (glyphAddr (s.readV x))).advance

/-- `Fx33`, R193: the hundreds, tens and units of `V[x]` at `I`, `I + 1`, `I + 2`. -/
def execLdBVx (x : RegIdx) (s : State) : Host.Outcome State Fault Refusal :=
  .next (s.storeAtI (bcdDigits (s.readV x))).advance

/-- `Fx55`, R194: `V[0]` to `V[x]` at `I`, `I + 1`, …, `I + x`. -/
def execStRegs (x : RegIdx) (s : State) : Host.Outcome State Fault Refusal :=
  .next (s.storeAtI (s.regsUpTo x)).advance

/-- `Fx65`, R195: `V[i] <- MemRead(I + i, 1)` for `i` from 0 to `x`. -/
def execLdRegs (x : RegIdx) (s : State) : Host.Outcome State Fault Refusal :=
  .next (s.loadRegsBelow (x.val + 1)).advance

end Sys2Proof.Machine
end

