-- ==== Sys2Proof/Machine/ControlFlow.lean ====
section
/-! DEFINITION. The meanings of 41_control_flow: return, jump, call, the register skips, and jump with offset. -/

namespace Sys2Proof.Machine

/-- `00EE`, R140: pop the stack into `PC`, or the fault `StackUnderflow` on an empty stack (R253). -/
def execRet (s : State) : Host.Outcome State Fault Refusal :=
  match s.pop with
  | none => .next (s.raise .stackUnderflow (encode .ret))
  | some (t, s') => .next (s'.setPC t)

/-- `1nnn`, R141: `pc <- zext_16(nnn)`. -/
def execJp (nnn : Imm12) (s : State) : Host.Outcome State Fault Refusal :=
  .next (s.setPC (addrOfImm nnn))

/-- `2nnn`, R142: push `pc_next` and jump, or the fault `StackOverflow` on a full stack (R252). -/
def execCall (nnn : Imm12) (s : State) : Host.Outcome State Fault Refusal :=
  match s.push s.pcNext with
  | none => .next (s.raise .stackOverflow (encode (.call nnn)))
  | some s' => .next (s'.setPC (addrOfImm nnn))

/-- `3xkk`, R143: skip if `V[x] == kk`. -/
def execSeImm (x : RegIdx) (kk : Byte) (s : State) : Host.Outcome State Fault Refusal :=
  .next (s.skipIf (s.readV x == kk))

/-- `4xkk`, R144: skip if `V[x] != kk`. -/
def execSneImm (x : RegIdx) (kk : Byte) (s : State) : Host.Outcome State Fault Refusal :=
  .next (s.skipIf (s.readV x != kk))

/-- `5xy0`, R145: skip if `V[x] == V[y]`. -/
def execSeReg (x y : RegIdx) (s : State) : Host.Outcome State Fault Refusal :=
  .next (s.skipIf (s.readV x == s.readV y))

/-- `9xy0`, R146: skip if `V[x] != V[y]`. -/
def execSneReg (x y : RegIdx) (s : State) : Host.Outcome State Fault Refusal :=
  .next (s.skipIf (s.readV x != s.readV y))

/-- `Bnnn`, R147: `pc <- zext_16(nnn) + zext_16(V[0])`, not reduced modulo 4096. -/
def execJpV0 (nnn : Imm12) (s : State) : Host.Outcome State Fault Refusal :=
  .next (s.setPC (addrOfImm nnn + wordOfByte (s.readV v0)))

end Sys2Proof.Machine
end

