-- ==== Sys2Proof/Machine/Display.lean ====
section
/-! DEFINITION. The meanings of 44_display: clear, and the sprite compositor as R211's loops. -/

namespace Sys2Proof.Machine

/-- `00E0`, R210: every framebuffer cell 0. -/
def execCls (s : State) : Host.Outcome State Fault Refusal :=
  .next (s.setFb Framebuffer.blank).advance

/-- One sprite bit that is 1, at a cell: a collision if the cell is 1 before the write, then the XOR (R213). -/
def drawBit (y : Fin 32) (x : Fin 64) (acc : Framebuffer × Bool) : Framebuffer × Bool :=
  (acc.1.toggle y x, acc.2 || acc.1.cell y x)

/-- The first `k` columns of a sprite row `b`, most significant bit first, with origin column `vx` (R211, R212). -/
def drawColumns (b : Byte) (vx : Nat) (y : Fin 32) (acc : Framebuffer × Bool) : Nat → Framebuffer × Bool
  | 0 => acc
  | c + 1 =>
    let acc' := drawColumns b vx y acc c
    if b.getLsbD (7 - c) then drawBit y (spriteColumn vx c) acc' else acc'

/-- The first `k` rows of the sprite at `I`, with origin `(vx, vy)`, over a framebuffer without a collision so far. A row
that is clipped draws nothing (R211, R214). -/
def State.drawRows (s : State) (vx vy : Nat) : Nat → Framebuffer × Bool
  | 0 => (s.fb, false)
  | r + 1 =>
    let acc := s.drawRows vx vy r
    match spriteRow s.quirks.drawVwrap vy r with
    | some yy => drawColumns (s.readAtI r) vx yy acc 8
    | none => acc

/-- `Dxyn`, R211: the origin is `(V[x], V[y])`, read before `VF` is touched; `n` rows are drawn, and `VF` receives
whether any bit collided. -/
def execDrw (x y : RegIdx) (n : Nibble) (s : State) : Host.Outcome State Fault Refusal :=
  let d := s.drawRows (s.readV x).toNat (s.readV y).toNat n.toNat
  .next ((s.setFb d.1).writeFlag d.2).advance

end Sys2Proof.Machine
end

