-- ==== Sys2Proof/Machine/KeysTimers.lean ====
section
/-! DEFINITION. The meanings of 45_keys_timers: the key skips, the key wait, and the timer moves. -/

namespace Sys2Proof.Machine

/-- `Ex9E`, R230: skip if the selected key is pressed. -/
def execSkp (x : RegIdx) (s : State) : Host.Outcome State Fault Refusal :=
  .next (s.skipIf (s.keyDown (s.keySelected x)))

/-- `ExA1`, R231: skip if the selected key is not pressed. -/
def execSknp (x : RegIdx) (s : State) : Host.Outcome State Fault Refusal :=
  .next (s.skipIf (!s.keyDown (s.keySelected x)))

/-- `Fx0A`, R232: `mode <- AwaitingKey(x)`; a key event completes it later (60_exceptions R267). -/
def execLdVxK (x : RegIdx) (s : State) : Host.Outcome State Fault Refusal :=
  .next (s.setMode (.awaitingKey x)).advance

/-- `Fx07`, R233: `V[x] <- DT`. -/
def execLdVxDt (x : RegIdx) (s : State) : Host.Outcome State Fault Refusal :=
  .next (s.writeV x s.DT).advance

/-- `Fx15`, R234: `DT <- V[x]`. -/
def execLdDtVx (x : RegIdx) (s : State) : Host.Outcome State Fault Refusal :=
  .next (s.setDT (s.readV x)).advance

/-- `Fx18`, R235: `ST <- V[x]`. -/
def execLdStVx (x : RegIdx) (s : State) : Host.Outcome State Fault Refusal :=
  .next (s.setST (s.readV x)).advance

end Sys2Proof.Machine
end

