-- ==== Sys2Proof/Machine/LoadAlu.lean ====
section
/-! DEFINITION. The meanings of 42_load_alu: register load, arithmetic, logic, shifts, and random. Every result is an
unsigned 8-bit value, reduced modulo 256 (R173), which addition and subtraction of bytes do. -/

namespace Sys2Proof.Machine

/-- `6xkk`, R160: `V[x] <- kk`. -/
def execLdImm (x : RegIdx) (kk : Byte) (s : State) : Host.Outcome State Fault Refusal :=
  .next (s.writeV x kk).advance

/-- `7xkk`, R161: `V[x] <- (V[x] + kk) mod 256`, no flag. -/
def execAddImm (x : RegIdx) (kk : Byte) (s : State) : Host.Outcome State Fault Refusal :=
  .next (s.writeV x (s.readV x + kk)).advance

/-- `8xy0`, R162: `V[x] <- V[y]`. -/
def execLdReg (x y : RegIdx) (s : State) : Host.Outcome State Fault Refusal :=
  .next (s.writeV x (s.readV y)).advance

/-- `8xy1`, R163: `V[x] <- V[x] | V[y]`; `VF` is not written as a flag. -/
def execOrReg (x y : RegIdx) (s : State) : Host.Outcome State Fault Refusal :=
  .next (s.writeV x (s.readV x ||| s.readV y)).advance

/-- `8xy2`, R164: `V[x] <- V[x] & V[y]`; `VF` is not written as a flag. -/
def execAndReg (x y : RegIdx) (s : State) : Host.Outcome State Fault Refusal :=
  .next (s.writeV x (s.readV x &&& s.readV y)).advance

/-- `8xy3`, R165: `V[x] <- V[x] ^ V[y]`; `VF` is not written as a flag. -/
def execXorReg (x y : RegIdx) (s : State) : Host.Outcome State Fault Refusal :=
  .next (s.writeV x (s.readV x ^^^ s.readV y)).advance

/-- `8xy4`, R166: `V[x] <- (V[x] + V[y]) mod 256`, then `VF <-` carry. -/
def execAddReg (x y : RegIdx) (s : State) : Host.Outcome State Fault Refusal :=
  .next (s.writeResultFlag x (s.readV x + s.readV y) (carryFlag (s.readV x) (s.readV y))).advance

/-- `8xy5`, R167: `V[x] <- (V[x] - V[y]) mod 256`, then `VF <-` not-borrow. -/
def execSubReg (x y : RegIdx) (s : State) : Host.Outcome State Fault Refusal :=
  .next (s.writeResultFlag x (s.readV x - s.readV y) (notBorrowFlag (s.readV x) (s.readV y))).advance

/-- `8xy6`, R168: the shift operand shifted right by one, then `VF <-` its bit 0. -/
def execShr (x y : RegIdx) (s : State) : Host.Outcome State Fault Refusal :=
  .next (s.writeResultFlag x (s.shiftOperand x y >>> 1) (shiftRightFlag (s.shiftOperand x y))).advance

/-- `8xy7`, R169: `V[x] <- (V[y] - V[x]) mod 256`, then `VF <-` not-borrow of that difference. -/
def execSubnReg (x y : RegIdx) (s : State) : Host.Outcome State Fault Refusal :=
  .next (s.writeResultFlag x (s.readV y - s.readV x) (notBorrowFlag (s.readV y) (s.readV x))).advance

/-- `8xyE`, R170: the shift operand shifted left by one, modulo 256, then `VF <-` its bit 7. -/
def execShl (x y : RegIdx) (s : State) : Host.Outcome State Fault Refusal :=
  .next (s.writeResultFlag x (s.shiftOperand x y <<< 1) (shiftLeftFlag (s.shiftOperand x y))).advance

/-- `Cxkk`, R171: `V[x] <- rnd & kk`, with a fresh free byte at every execution (assumption 2). -/
def execRnd (x : RegIdx) (kk : Byte) (s : State) : Host.Outcome State Fault Refusal :=
  .next (s.writeV x (Config.rnd s.draws &&& kk)).countDraw.advance

end Sys2Proof.Machine
end

