-- ==== Sys2Proof/Machine/Events.lean ====
section
/-! DEFINITION. The atomic steps of the four agents (00_scope R11): the instruction cycle (R120), the timer clock (R263),
the input latch (R266, R267), and the host's `QUIT` (R272) and `RESET` (R290); then the host loop's order of events
(R129) and the outputs (10_state R39). -/

namespace Sys2Proof.Machine

/-- `CYCLE`, R120: nothing in the modes `Halted` and `AwaitingKey` (R127, R128); in `Running`, the end of memory (R121),
an illegal word (R251), or one instruction. -/
def cycle (s : State) : Host.Outcome State Fault Refusal :=
  match s.mode with
  | .halted _ => .next s
  | .awaitingKey _ => .next s
  | .running =>
    if Config.memSize ≤ s.PC.toNat then .next (s.setMode (.halted .endOfMemory))
    else
      match decode (s.memReadWord s.PC.toNat) with
      | .error _ => .next (s.raise .decodeFault (s.memReadWord s.PC.toNat))
      | .ok i => exec i s

/-- One decrement "toward zero, never below zero" (R263). -/
def countDown (b : Byte) : Byte := if b = 0#8 then 0#8 else b - 1#8

/-- `TICK`, R263: both timers are stepped, unless the machine is halted. -/
def tick (s : State) : State :=
  if s.isHalted then s else (s.setDT (countDown s.DT)).setST (countDown s.ST)

/-- The completion of a key wait, R267: `V[r] <- k` and `mode <- Running`, if the machine awaits a key. -/
def endWait (s : State) (k : KeyIdx) : State :=
  match s.mode with
  | .awaitingKey r => (s.writeV r (byteOfKey k)).setMode .running
  | _ => s

/-- `KEY(k, p)`, R266: the latch is written, unless the machine is halted; a transition to pressed ends a key wait. -/
def keyEvent (k : KeyIdx) (pressed : Bool) (s : State) : State :=
  if s.isHalted then s
  else if pressed && !s.keyDown k then endWait (s.setKey k pressed) k
  else s.setKey k pressed

/-- `QUIT`, R272: `mode <- Halted(Quit)`, unless the machine is halted. -/
def quitEvent (s : State) : State := if s.isHalted then s else s.setMode (.halted .quit)

/-- An image copied into memory: `mem[a + i] <- image[i]` (R291, R293). -/
def loadImage (m : Memory) (a : Nat) : List Byte → Memory
  | [] => m
  | b :: bs => (loadImage m (a + 1) bs).write a b

/-- Memory after reset: the font at 0x050 (R293), the ROM at 0x200 (R291), and 0x00 elsewhere. The two images never
overlap, so that their order does not show. -/
def resetMemory (rom : List Byte) (font : Font) : Memory :=
  loadImage (loadImage [] Config.progBase rom) Config.fontBase font.toList

/-- `RESET(ROM)`, R290: every piece of the core's state takes its reset value (10_state R40), the font is installed, the
ROM is loaded at 0x200, and the quirk inputs are latched. What is not the core's stays: the events still to arrive and the count of random bytes
drawn (assumption 14). -/
def resetWith (rom : List Byte) (quirks : Quirks) (font : Font) (s : State) : State :=
  { State.reset with mem := resetMemory rom font, quirks := quirks, draws := s.draws, inputs := s.inputs }

/-- The step of the agent that sends the event. A ROM that does not fit is the loader's fault, and the core is not reset
(R254; assumption 7). -/
def handleEvent (e : Event) (s : State) : Host.Outcome State Fault Refusal :=
  match e with
  | .cycle => cycle s
  | .key k pressed => .next (keyEvent k pressed s)
  | .tick => .next (tick s)
  | .quit => .next (quitEvent s)
  | .reset rom quirks font => if romFits rom then .next (resetWith rom quirks font s) else .fault .loadFault

/-- One event of the machine: the oldest event that has arrived, or, when none has, the next `CYCLE` (assumption 1). -/
def nextEvent (s : State) : Host.Outcome State Fault Refusal :=
  match s.inputs with
  | [] => cycle s
  | e :: rest => handleEvent e (s.setInputs rest)

/-- One iteration of the host loop as events: one `CYCLE`, the key events polled, then the ticks that are due (R11,
R129). -/
def loopIteration (polled : List (KeyIdx × Bool)) (ticksDue : Nat) : List Event :=
  .cycle :: (polled.map fun kp => .key kp.1 kp.2) ++ List.replicate ticksDue .tick

/-! ### Outputs (10_state R39): pure functions of the state -/

/-- The framebuffer snapshot: 2048 bits, row-major, the cell `fb[y][x]` at index `64 * y + x` (R29, R39(a)). -/
def State.snapshot (s : State) : List Bool :=
  (List.finRange 32).flatMap fun y => (List.finRange 64).map fun x => s.fb.cell y x

/-- `audio_active`: `ST != 0` (R39(b), R264). -/
def State.audioActive (s : State) : Bool := s.ST != 0#8

/-- The numeric code of a halt reason (R250). -/
def HaltReason.code : HaltReason → Nat
  | .decodeFault => 1
  | .stackOverflow => 2
  | .stackUnderflow => 3
  | .endOfMemory => 4
  | .quit => 5

/-- Why the machine stopped, as a code: 0 while it has not (R39(c), R250). -/
def State.statusCode (s : State) : Nat :=
  match s.mode with
  | .halted r => r.code
  | _ => 0

/-! ### Placing an instruction -/

/-- The events with a `CYCLE` first: none when none has arrived, since a `CYCLE` is next then. -/
def cycleFirst : List Event → List Event
  | [] => []
  | es => .cycle :: es

/-- The state whose next step runs the instruction with the table word `w`: the word's bytes stand at `PC` (brought below
4096), high byte first, the mode is `Running`, and a `CYCLE` is the next event. It stands for a ROM load with the program
at `PC` (assumption 15). -/
def State.placeWord (s : State) (nbits w : Nat) : State :=
  { s with
    PC := BitVec.ofNat 16 (wrapAddr s.PC.toNat)
    mem := s.mem.writeBytes (wrapAddr s.PC.toNat) [highByte (tableWord nbits w), lowByte (tableWord nbits w)]
    mode := .running
    inputs := cycleFirst s.inputs }

end Sys2Proof.Machine
end

