-- ==== Sys2Proof/Machine/Step.lean ====
section
/-! DEFINITION. One step of the machine: one atomic event (10_state R38). -/

namespace Sys2Proof.Machine

/-- One step: the machine handles one event (00_scope R11, 10_state R38). -/
def step (s : State) : Host.Outcome State Fault Refusal := nextEvent s

/-- The state with an instruction stored where `step` fetches next, so that the next step runs it. -/
def State.withFetchWord (s : State) (nbits w : Nat) : State := s.placeWord nbits w

end Sys2Proof.Machine
end

