-- ==== Sys2Proof/Safety.lean ====
section
/-! DEFINITION. The terms claims are made in: the parts of the state and what it is for one to be unchanged, the
invariant of 10_state R36, the precise halt of 60_exceptions R257, and the reachable states. -/

namespace Sys2Proof

open Sys2Proof.Machine

/-- The pieces of state of 10_state R20, the latched quirks, and the model's own two. -/
inductive Part where
  | V | I | PC | stack | SP | DT | ST | fb | keys | mem | mode | fault | quirks | draws | inputs
deriving DecidableEq, Repr

/-- A part is the same in two states, as the machine reads it: register by register, byte by byte, cell by cell. -/
def Part.Same (p : Part) (s t : State) : Prop :=
  match p with
  | .V => ∀ r, t.readV r = s.readV r
  | .I => t.I = s.I
  | .PC => t.PC = s.PC
  | .stack => t.stack = s.stack
  | .SP => t.SP = s.SP
  | .DT => t.DT = s.DT
  | .ST => t.ST = s.ST
  | .fb => ∀ y x, t.fb.cell y x = s.fb.cell y x
  | .keys => ∀ k, t.keyDown k = s.keyDown k
  | .mem => ∀ a, t.memRead a = s.memRead a
  | .mode => t.mode = s.mode
  | .fault => t.fault = s.fault
  | .quirks => t.quirks = s.quirks
  | .draws => t.draws = s.draws
  | .inputs => t.inputs = s.inputs

/-- Every part but the listed ones is unchanged from `s` to `t`. -/
def KeptExcept (changed : List Part) (s t : State) : Prop := ∀ p, p ∉ changed → p.Same s t

/-- Every register but the listed ones is unchanged from `s` to `t`. -/
def RegsKeptExcept (changed : List RegIdx) (s t : State) : Prop := ∀ r, r ∉ changed → t.readV r = s.readV r

/-- The instruction answers a next state, and that state has the property. -/
def Completes (i : Instr) (s : State) (P : State → Prop) : Prop := ∃ t, exec i s = .next t ∧ P t

/-- The fault of kind `k` with word `iw` has been taken from `s` to `t`: the mode and the record say so, and nothing else
has changed (60_exceptions R257). -/
def HaltedBy (k : FaultKind) (iw : Word) (s t : State) : Prop :=
  t.mode = .halted k.reason ∧ t.fault = some ⟨k, s.PC, iw⟩ ∧ KeptExcept [.mode, .fault] s t

/-- Every live stack entry is an address that some `2nnn` can have pushed (R36(g)). -/
abbrev StackHoldsReturnAddresses (s : State) : Prop :=
  ∀ n : Fin 16, n.val < s.SP.val → 2 ≤ s.stack[n.val].toNat ∧ s.stack[n.val].toNat ≤ 0x1001

/-- A fault record is present only in mode `Halted` with the same kind (R36(f)). -/
abbrev FaultOnlyWhenHalted (s : State) : Prop :=
  s.fault.all (fun f => decide (s.mode = .halted f.kind.reason)) = true

/-- The invariant of R36, with the canonical form of memory. The parts (a), (b) and (c) of R36 are carried by the types
of the fields. -/
abbrev Inv (s : State) : Prop :=
  s.mem.wf = true ∧ s.I.toNat ≤ 0xFFF ∧ s.PC.toNat ≤ 0x10FE ∧ StackHoldsReturnAddresses s ∧ FaultOnlyWhenHalted s

/-- What a halted machine says of why it halted (R250 to R257): a fault's record names the instruction at `PC`, which is
one that raises that fault in this state; the normal ends leave no record, and neither has a machine that runs. -/
def PreciseHalt (s : State) : Prop :=
  let iw := s.memReadWord s.PC.toNat
  match s.mode with
  | .halted .decodeFault =>
    s.fault = some ⟨.decodeFault, s.PC, iw⟩ ∧ s.PC.toNat < Config.memSize ∧ legalWord iw = false
  | .halted .stackOverflow =>
    s.fault = some ⟨.stackOverflow, s.PC, iw⟩ ∧ s.PC.toNat < Config.memSize ∧ s.SP.val = 16 ∧
      ∃ nnn, decode iw = .ok (.call nnn)
  | .halted .stackUnderflow =>
    s.fault = some ⟨.stackUnderflow, s.PC, iw⟩ ∧ s.PC.toNat < Config.memSize ∧ s.SP.val = 0 ∧ iw = 0x00EE#16
  | .halted .endOfMemory => s.fault = none ∧ Config.memSize ≤ s.PC.toNat
  | .halted .quit => s.fault = none
  | .awaitingKey _ => s.fault = none
  | .running => s.fault = none

/-- The states a run can reach from reset under some sequence of events. -/
inductive Reachable : State → Prop where
  | reset (es : List Event) : Reachable (State.reset.setInputs es)
  | step {s t : State} (hs : Reachable s) (h : step s = .next t) : Reachable t

end Sys2Proof
end

