-- ==== Sys2Proof/Certificates/Slice0/Obligations.lean ====
section
/-! DEFINITION. The statements for the provers. Each docstring names the rules of spec/ it formalises, and the choices it
rests on where a rule is the spec's own decision (D, G) or the model's (assumption). -/

namespace Sys2Proof.Claims

open Sys2Proof.Machine

/-- The word of the instruction has the row's literal digits (30_encoding R95), and decodes to it. -/
def EncodedAs (i : Instr) (matchBits mask : Word) : Prop := encode i &&& mask = matchBits ∧ decode (encode i) = .ok i

/-- The only effect is `Vx <- v` and `pc <- pc_next`. -/
def OnlyWrites (x : RegIdx) (v : Byte) (s t : State) : Prop :=
  t.readV x = v ∧ RegsKeptExcept [x] s t ∧ t.PC = s.PC + 2#16 ∧ KeptExcept [.V, .PC] s t

/-- The only effect is that of a skip: `pc <- pc_next + 2` if the condition holds, else `pc <- pc_next` (R148). -/
def OnlySkips (cond : Prop) (s t : State) : Prop :=
  (cond → t.PC = s.PC + 4#16) ∧ (¬ cond → t.PC = s.PC + 2#16) ∧ KeptExcept [.PC] s t

/-- The only effect is a result in `Vx` and then a flag in `VF` (R172): `VF` holds the flag, `Vx` the result unless it is
`VF` itself. Values are given as numbers. -/
def OnlyWritesResultFlag (x : RegIdx) (res : Nat) (flag : Prop) (s t : State) : Prop :=
  (x ≠ vF → (t.readV x).toNat = res) ∧ (flag → (t.readV vF).toNat = 1) ∧ (¬ flag → (t.readV vF).toNat = 0) ∧
    RegsKeptExcept [x, vF] s t ∧ t.PC = s.PC + 2#16 ∧ KeptExcept [.V, .PC] s t

/-- The parts of the state that 10_state R41 lets an instruction write, with the fault side of `2nnn` and `00EE`
(R252, R253) and the model's own count of draws. -/
def partsWritten : Instr → List Part
  | .cls => [.fb, .PC]
  | .ret => [.SP, .PC, .mode, .fault]
  | .jp _ => [.PC]
  | .call _ => [.stack, .SP, .PC, .mode, .fault]
  | .seImm _ _ => [.PC]
  | .sneImm _ _ => [.PC]
  | .seReg _ _ => [.PC]
  | .ldImm _ _ => [.V, .PC]
  | .addImm _ _ => [.V, .PC]
  | .ldReg _ _ => [.V, .PC]
  | .orReg _ _ => [.V, .PC]
  | .andReg _ _ => [.V, .PC]
  | .xorReg _ _ => [.V, .PC]
  | .addReg _ _ => [.V, .PC]
  | .subReg _ _ => [.V, .PC]
  | .shr _ _ => [.V, .PC]
  | .subnReg _ _ => [.V, .PC]
  | .shl _ _ => [.V, .PC]
  | .sneReg _ _ => [.PC]
  | .ldI _ => [.I, .PC]
  | .jpV0 _ => [.PC]
  | .rnd _ _ => [.V, .PC, .draws]
  | .drw _ _ _ => [.fb, .V, .PC]
  | .skp _ => [.PC]
  | .sknp _ => [.PC]
  | .ldVxDt _ => [.V, .PC]
  | .ldVxK _ => [.mode, .PC]
  | .ldDtVx _ => [.DT, .PC]
  | .ldStVx _ => [.ST, .PC]
  | .addIVx _ => [.I, .V, .PC]
  | .ldFVx _ => [.I, .PC]
  | .ldBVx _ => [.mem, .PC]
  | .stRegs _ => [.mem, .PC]
  | .ldRegs _ => [.V, .PC]

/-- The general registers that 10_state R22 and R41 let an instruction write under given quirks. -/
def regsWritten (q : Quirks) : Instr → List RegIdx
  | .ldImm x _ => [x]
  | .addImm x _ => [x]
  | .ldReg x _ => [x]
  | .orReg x _ => [x]
  | .andReg x _ => [x]
  | .xorReg x _ => [x]
  | .addReg x _ => [x, vF]
  | .subReg x _ => [x, vF]
  | .shr x _ => [x, vF]
  | .subnReg x _ => [x, vF]
  | .shl x _ => [x, vF]
  | .rnd x _ => [x]
  | .drw _ _ _ => [vF]
  | .ldVxDt x => [x]
  | .addIVx _ => if q.fx1eVf then [vF] else []
  | .ldRegs x => (List.finRange 16).filter (· ≤ x)
  | _ => []

/-- The six skips (40_instruction_cycle R126). -/
def isSkip : Instr → Bool
  | .seImm _ _ => true
  | .sneImm _ _ => true
  | .seReg _ _ => true
  | .sneReg _ _ => true
  | .skp _ => true
  | .sknp _ => true
  | _ => false

/-- The four transfers that assign a computed target (40_instruction_cycle R126). -/
def isTransfer : Instr → Bool
  | .ret => true
  | .jp _ => true
  | .call _ => true
  | .jpV0 _ => true
  | _ => false

/-- The states agree on everything but stack entries at or above `SP`, which are dead (10_state R25). -/
def AgreeButDeadStack (s s' : State) : Prop :=
  s' = { s with stack := s'.stack } ∧ ∀ n : Fin 16, n.val < s.SP.val → s'.stack[n.val] = s.stack[n.val]

/-- A sequence of `2nnn` instructions run one after the other, each wherever the one before it left the machine. -/
def execCalls : List Imm12 → State → Host.Outcome State Fault Refusal
  | [], s => .next s
  | nnn :: rest, s =>
    match exec (.call nnn) s with
    | .next t => execCalls rest t
    | .fault r => .fault r
    | .refused r => .refused r

/-- A sprite bit that is 1 lands on the cell in row `yy` and column `xx` (44_display R211, R212, R214): row `r` and column
`c` of the `n`-row sprite at `I`, drawn at `(vx, vy)`. -/
def SpriteCovers (s : State) (vx vy n : Nat) (yy : Fin 32) (xx : Fin 64) : Prop :=
  ∃ r c, r < n ∧ c < 8 ∧ (if s.quirks.drawVwrap then (vy + r) % 32 = yy.val else vy + r = yy.val) ∧
    (vx + c) % 64 = xx.val ∧ (s.memRead (s.I.toNat + r)).getLsbD (7 - c) = true

/-- The key event at the head of the stream is a transition to pressed of key `k` (60_exceptions R267). -/
def PressArrives (s : State) (k : KeyIdx) : Prop := s.inputs.head? = some (.key k true) ∧ s.keyDown k = false

/-- The latch of key `k` after the polled key events, from its state before them: as the last event of that key says
(60_exceptions R266). -/
def latchAfter (k : KeyIdx) : List (KeyIdx × Bool) → Bool → Bool
  | [], before => before
  | (j, pressed) :: rest, before => latchAfter k rest (if j = k then pressed else before)

/-- A `CYCLE` is the next event, and `rest` are the events that follow it (assumption 1). -/
def CycleIsNext (s : State) (rest : List Event) : Prop :=
  s.inputs = .cycle :: rest ∨ (s.inputs = [] ∧ rest = [])

end Sys2Proof.Claims

open Sys2Proof Sys2Proof.Machine Sys2Proof.Claims

/-! ### Encoding -/

/-- R91, R92, R95: encoding an instruction and decoding the word gives the instruction back, whatever its operands. -/
def Obligations.DecodeOfEncodeIsTheInstruction : Prop := ∀ i : Instr, decode (encode i) = .ok i

/-- R91, R103: a word that decodes is the encoding of what it decodes to: the decoder drops no bit of a legal word, and no
two words are one instruction. -/
def Obligations.EncodeOfDecodeIsTheWord : Prop := ∀ (w : Word) (i : Instr), decode w = .ok i → encode i = w

/-- R95, R103: the dispatch tree of R94 and the match and mask table of R95 name the same instruction for every word, so
that the rows exclude each other. Sub-codes and literal digits rest on G2 to G5 and D16. -/
def Obligations.DecodeAgreesWithTheMatchMaskTable : Prop :=
  ∀ (w : Word), ∀ r ∈ opcodeRows, r.accepts w = true ↔ ∃ i, decode w = .ok i ∧ i.mnemonic = r.mnemonic

/-- R96: the illegal words are exactly those of its six rows (D16, G2), and each is rejected by the name of its row. -/
def Obligations.IllegalWordsAreThoseOfR96 : Prop :=
  ∀ w : Word,
    (decode w = .error .illegal0 ↔ w.toNat / 0x1000 = 0x0 ∧ w.toNat ≠ 0x00E0 ∧ w.toNat ≠ 0x00EE) ∧
    (decode w = .error .illegal5 ↔ w.toNat / 0x1000 = 0x5 ∧ w.toNat % 0x10 ≠ 0) ∧
    (decode w = .error .illegal8 ↔
      w.toNat / 0x1000 = 0x8 ∧ w.toNat % 0x10 ∈ [0x8, 0x9, 0xA, 0xB, 0xC, 0xD, 0xF]) ∧
    (decode w = .error .illegal9 ↔ w.toNat / 0x1000 = 0x9 ∧ w.toNat % 0x10 ≠ 0) ∧
    (decode w = .error .illegalE ↔ w.toNat / 0x1000 = 0xE ∧ w.toNat % 0x100 ∉ [0x9E, 0xA1]) ∧
    (decode w = .error .illegalF ↔
      w.toNat / 0x1000 = 0xF ∧
        w.toNat % 0x100 ∉ [0x07, 0x0A, 0x15, 0x18, 0x1E, 0x29, 0x33, 0x55, 0x65]) ∧
    (∀ e, decode w = .error e → e ≠ .truncated)

/-- R95 (G4) and the vectors of 95_test_vectors: eighteen words written out from the encoding, one or more of
each of the sixteen families 0 to F, decode to their instructions. -/
def Obligations.WordsWrittenOutDecode : Prop :=
  decode 0x00E0#16 = .ok .cls ∧ decode 0x00EE#16 = .ok .ret ∧ decode 0x1ABC#16 = .ok (.jp 0xABC) ∧
  decode 0x220A#16 = .ok (.call 0x20A) ∧ decode 0x332A#16 = .ok (.seImm 3 0x2A) ∧
  decode 0x432A#16 = .ok (.sneImm 3 0x2A) ∧ decode 0x5120#16 = .ok (.seReg 1 2) ∧
  decode 0x6A05#16 = .ok (.ldImm 0xA 0x05) ∧ decode 0x7002#16 = .ok (.addImm 0 0x02) ∧
  decode 0x8AB4#16 = .ok (.addReg 0xA 0xB) ∧ decode 0x9120#16 = .ok (.sneReg 1 2) ∧
  decode 0xA2F0#16 = .ok (.ldI 0x2F0) ∧ decode 0xBFFF#16 = .ok (.jpV0 0xFFF) ∧
  decode 0xC30F#16 = .ok (.rnd 3 0x0F) ∧ decode 0xD125#16 = .ok (.drw 1 2 5) ∧
  decode 0xE9A1#16 = .ok (.sknp 9) ∧ decode 0xF10A#16 = .ok (.ldVxK 1) ∧ decode 0xFF65#16 = .ok (.ldRegs 0xF)

/-! ### The step -/

/-- R120, R122, R124: a step in mode `Running`, with a `CYCLE` next and `PC` below 4096, runs the instruction that the two
bytes at `PC` and `(PC + 1) mod 4096` decode to, high byte first; around it the step only takes the event off the stream
of those to come (assumption 1). -/
def Obligations.StepRunsTheFetchedInstruction : Prop :=
  ∀ (s : State) (i : Instr) (rest : List Event),
    CycleIsNext s rest → s.mode = .running → s.PC.toNat < 4096 →
    decode (wordOfBytes (s.memRead s.PC.toNat) (s.memRead ((s.PC.toNat + 1) % 4096))) = .ok i →
    step s = exec i (s.setInputs rest)

/-- R120, R251, R257: a cycle that fetches an illegal word takes the fault `DecodeFault`, whose record holds the address
and the word; `PC` stays (D14). -/
def Obligations.IllegalWordTakesDecodeFault : Prop :=
  ∀ (s : State) (rest : List Event), CycleIsNext s rest → s.mode = .running → s.PC.toNat < 4096 →
    legalWord (s.memReadWord s.PC.toNat) = false →
    ∃ t, step s = .next t ∧ HaltedBy .decodeFault (s.memReadWord s.PC.toNat) (s.setInputs rest) t

/-- R255, R121: a cycle that begins in mode `Running` with `PC` at or past 4096 halts with `EndOfMemory` and changes nothing
else, so that the fault record and `PC` stay; that a cycle is next when no event has arrived is the model's choice
(assumption 1). -/
def Obligations.EndOfMemoryHaltsWithoutFetching : Prop :=
  ∀ (s : State) (rest : List Event), CycleIsNext s rest → s.mode = .running → 4096 ≤ s.PC.toNat →
    ∃ t, step s = .next t ∧ t.mode = .halted .endOfMemory ∧ KeptExcept [.mode] (s.setInputs rest) t

/-- R127: while a key is awaited, a cycle changes nothing. -/
def Obligations.CycleWhileAwaitingKeyChangesNothing : Prop :=
  ∀ (s : State) (rest : List Event) (r : RegIdx), CycleIsNext s rest → s.mode = .awaitingKey r →
    step s = .next (s.setInputs rest)

/-- R128, R258 (D15): a halted machine changes under no event but `RESET`; the step only takes the event off the stream. -/
def Obligations.HaltedAbsorbsEveryEventButReset : Prop :=
  ∀ (s : State) (reason : HaltReason), s.mode = .halted reason →
    (∀ rom q f, s.inputs.head? ≠ some (.reset rom q f)) → step s = .next (s.setInputs s.inputs.tail)

/-- R250, R254, R291, R63: a `RESET` whose ROM has more than 3584 bytes is the load fault, in every mode (assumption 7), and
every other step answers a next state: no memory access, no operand and no mode stops the machine. -/
def Obligations.StepAnswersUnlessTheRomIsTooLong : Prop :=
  ∀ s : State,
    (∀ rom q f, s.inputs.head? = some (.reset rom q f) → 3584 < rom.length → step s = .fault .loadFault) ∧
    ((∀ rom q f, s.inputs.head? = some (.reset rom q f) → rom.length ≤ 3584) → ∃ t, step s = .next t)

/-! ### Invariants and whole-machine rules -/

/-- R36: every step keeps the invariant: memory in canonical form, `I` at most 0xFFF, `PC` at most 0x10FE, return
addresses on the live stack, and a fault record only in mode `Halted` with its kind (C1, D10). -/
def Obligations.StepKeepsTheInvariant : Prop := ∀ s t : State, Inv s → step s = .next t → Inv t

/-- R36, R40: the state after reset meets the invariant, under every sequence of events to come. -/
def Obligations.ResetMeetsTheInvariant : Prop := ∀ es : List Event, Inv (State.reset.setInputs es)

/-- R251, R252, R253, R255, R257, R272, R33: every step keeps what a halted machine says of its halt: the record names the
word at `PC`, which is one that raises that fault in this very state; a normal end and a running machine have no record
(D14, D15; assumption 9). -/
def Obligations.StepKeepsThePreciseHalt : Prop := ∀ s t : State, PreciseHalt s → step s = .next t → PreciseHalt t

/-- R22, R41: no instruction writes a part of the state, or a general register, that the access matrix does not give it
(D26). -/
def Obligations.AccessMatrixBoundsEveryInstruction : Prop :=
  ∀ (i : Instr) (s t : State), exec i s = .next t →
    KeptExcept (partsWritten i) s t ∧ RegsKeptExcept (regsWritten s.quirks i) s t

/-- R123, R126: the 24 instructions that neither skip nor transfer advance `PC` by 2; the six skips by 2 or by 4. -/
def Obligations.OnlySkipsAndTransfersLeaveTheSequence : Prop :=
  ∀ (i : Instr) (s t : State), exec i s = .next t → isTransfer i = false →
    t.PC = s.PC + 2#16 ∨ (isSkip i = true ∧ t.PC = s.PC + 4#16)

/-- R32, R271, R301: the mode changes only in these ways: in a cycle, `Fx0A` enters the key wait, and a fault or the end of
memory halts; `QUIT` halts; a press that is a transition ends the wait, storing the key; `RESET` gives `Running`. -/
def Obligations.ModeChangesOnlyAsListed : Prop :=
  ∀ s t : State, step s = .next t → t.mode ≠ s.mode →
    (s.mode = .running ∧ (∃ rest, CycleIsNext s rest) ∧ ∃ x, decode (s.memReadWord s.PC.toNat) = .ok (.ldVxK x) ∧
      t.mode = .awaitingKey x) ∨
    (s.mode = .running ∧ (∃ rest, CycleIsNext s rest) ∧
      ∃ k : FaultKind, t.mode = .halted k.reason ∧ t.fault.map FaultRecord.kind = some k) ∨
    (s.mode = .running ∧ (∃ rest, CycleIsNext s rest) ∧ 4096 ≤ s.PC.toNat ∧ t.mode = .halted .endOfMemory) ∨
    (∃ r k, s.mode = .awaitingKey r ∧ PressArrives s k ∧ t.mode = .running ∧ (t.readV r).toNat = k.val) ∨
    (s.inputs.head? = some .quit ∧ s.isHalted = false ∧ t.mode = .halted .quit) ∨
    (∃ rom q f, s.inputs.head? = some (.reset rom q f) ∧ t.mode = .running)

/-- R259, R260: nothing but an instruction that a cycle runs, and `RESET`, ever changes `PC`: no key event, tick or `QUIT`
does, in any state (assumption 1 on when a cycle is next). -/
def Obligations.OnlyInstructionsAndResetMovePC : Prop :=
  ∀ s t : State, step s = .next t → t.PC ≠ s.PC →
    ((∃ rest, CycleIsNext s rest) ∧ s.mode = .running ∧ s.PC.toNat < 4096 ∧ legalWord (s.memReadWord s.PC.toNat) = true) ∨
    (∃ rom q f, s.inputs.head? = some (.reset rom q f))

/-- R35: the quirk inputs change at no step but `RESET` (assumption 3). -/
def Obligations.QuirksChangeOnlyAtReset : Prop :=
  ∀ s t : State, step s = .next t → (∀ rom q f, s.inputs.head? ≠ some (.reset rom q f)) → t.quirks = s.quirks

/-- R28: no instruction reads the sound timer: two machines that differ in `ST` alone differ at most in `ST` after it. -/
def Obligations.NoInstructionReadsTheSoundTimer : Prop :=
  ∀ (i : Instr) (s t : State) (b : Byte), exec i s = .next t →
    ∃ t', exec i (s.setST b) = .next t' ∧ KeptExcept [.ST] t t'

/-- R29: no instruction but `Dxyn` observes the framebuffer: two machines that differ in it alone differ in nothing else
after any other instruction. -/
def Obligations.OnlyDrawObservesTheFramebuffer : Prop :=
  ∀ (i : Instr) (s t : State) (f : Framebuffer), exec i s = .next t → (∀ x y n, i ≠ .drw x y n) →
    ∃ t', exec i (s.setFb f) = .next t' ∧ KeptExcept [.fb] t t'

/-- R25: a stack entry at or above `SP` is dead: two machines that differ in such entries alone step alike, for ever. So
the value that assumption 4 gives the entries at reset cannot be observed. -/
def Obligations.DeadStackEntriesAreUnobservable : Prop :=
  ∀ s s' t : State, AgreeButDeadStack s s' → step s = .next t → ∃ t', step s' = .next t' ∧ AgreeButDeadStack t t'

/-! ### Control flow -/

/-- R141: `1nnn` assigns `zext_16(nnn)` to `PC` and changes nothing else. -/
def Obligations.JumpAssignsPC : Prop :=
  ∀ (nnn : Imm12) (s : State), EncodedAs (.jp nnn) 0x1000 0xF000 ∧
    Completes (.jp nnn) s fun t => t.PC.toNat = nnn.toNat ∧ KeptExcept [.PC] s t

/-- R142: with room on the stack, `2nnn` pushes the address of the next instruction and jumps; the other entries stay. -/
def Obligations.CallPushesTheReturnAddress : Prop :=
  ∀ (nnn : Imm12) (s : State), s.SP.val < 16 →
    Completes (.call nnn) s fun t => t.stack.toList[s.SP.val]? = some (s.PC + 2#16) ∧
      (∀ n : Fin 16, n.val ≠ s.SP.val → t.stack[n.val] = s.stack[n.val]) ∧ t.SP.val = s.SP.val + 1 ∧
      t.PC.toNat = nnn.toNat ∧ KeptExcept [.stack, .SP, .PC] s t

/-- R140: with an entry on the stack, `00EE` takes the top entry into `PC`; the entries themselves stay. -/
def Obligations.ReturnPopsIntoPC : Prop :=
  ∀ s : State, 0 < s.SP.val →
    Completes .ret s fun t => s.stack.toList[s.SP.val - 1]? = some t.PC ∧ t.SP.val = s.SP.val - 1 ∧
      KeptExcept [.SP, .PC] s t

/-- R142, R252 and R140, R253, with R257: `2nnn` at depth 16 and `00EE` at depth 0 halt the machine with the instruction's
own address and word on record, and write nothing else (D14). -/
def Obligations.StackFaultsHaltAndWriteNothing : Prop :=
  (∀ (nnn : Imm12) (s : State), s.SP.val = 16 →
    Completes (.call nnn) s fun t => HaltedBy .stackOverflow (encode (.call nnn)) s t) ∧
  (∀ s : State, s.SP.val = 0 → Completes .ret s fun t => HaltedBy .stackUnderflow 0x00EE#16 s t)

/-- The property S5 of 95_test_vectors, of R142 and R140: a call and then a return bring `PC` to the instruction after the
call and leave `SP` as it was. -/
def Obligations.CallThenReturnComesBack : Prop :=
  ∀ (nnn : Imm12) (s : State), s.SP.val < 16 →
    ∃ t u, exec (.call nnn) s = .next t ∧ exec .ret t = .next u ∧ u.PC = s.PC + 2#16 ∧ u.SP = s.SP ∧
      KeptExcept [.stack, .PC] s u

/-- The property S7 of 95_test_vectors, of R142: from an empty stack sixteen calls succeed, whatever their targets, and a
seventeenth raises the stack fault. -/
def Obligations.SixteenCallsSucceedAndTheSeventeenthFaults : Prop :=
  ∀ (targets : List Imm12) (s : State), targets.length = 16 → s.SP.val = 0 →
    ∃ t, execCalls targets s = .next t ∧ t.SP.val = 16 ∧ KeptExcept [.stack, .SP, .PC] s t ∧
      ∀ nnn, Completes (.call nnn) t fun u => HaltedBy .stackOverflow (encode (.call nnn)) t u

/-- R143, R144, R145, R146: the four register skips skip the next instruction exactly when their condition holds, and
change nothing but `PC`. -/
def Obligations.RegisterSkipsTestTheirCondition : Prop :=
  ∀ (x y : RegIdx) (kk : Byte) (s : State),
    (EncodedAs (.seImm x kk) 0x3000 0xF000 ∧ Completes (.seImm x kk) s (OnlySkips (s.readV x = kk) s)) ∧
    (EncodedAs (.sneImm x kk) 0x4000 0xF000 ∧ Completes (.sneImm x kk) s (OnlySkips (s.readV x ≠ kk) s)) ∧
    (EncodedAs (.seReg x y) 0x5000 0xF00F ∧ Completes (.seReg x y) s (OnlySkips (s.readV x = s.readV y) s)) ∧
    (EncodedAs (.sneReg x y) 0x9000 0xF00F ∧ Completes (.sneReg x y) s (OnlySkips (s.readV x ≠ s.readV y) s))

/-- R147: `Bnnn` assigns `nnn + V0` to `PC`, kept in full, and changes nothing else. -/
def Obligations.JumpWithOffsetKeepsTheFullSum : Prop :=
  ∀ (nnn : Imm12) (s : State),
    Completes (.jpV0 nnn) s fun t => t.PC.toNat = nnn.toNat + (s.readV 0).toNat ∧ KeptExcept [.PC] s t

/-! ### Load, arithmetic, logic, shifts, random -/

/-- R160: `6xkk` loads `kk` into `Vx`, `VF` included, and changes nothing else. -/
def Obligations.LoadImmediateWritesVx : Prop :=
  ∀ (x : RegIdx) (kk : Byte) (s : State), EncodedAs (.ldImm x kk) 0x6000 0xF000 ∧
    Completes (.ldImm x kk) s (OnlyWrites x kk s)

/-- R161: `7xkk` adds `kk` to `Vx` modulo 256; no flag is written. -/
def Obligations.AddImmediateWrapsWithoutFlag : Prop :=
  ∀ (x : RegIdx) (kk : Byte) (s : State), EncodedAs (.addImm x kk) 0x7000 0xF000 ∧
    Completes (.addImm x kk) s fun t => (t.readV x).toNat = ((s.readV x).toNat + kk.toNat) % 256 ∧
      OnlyWrites x (t.readV x) s t

/-- R162, R163, R164, R165 (G2, D26): the move and the three logic operations write `Vx`, bit by bit, and no flag. -/
def Obligations.MoveAndLogicWriteVxBitwise : Prop :=
  ∀ (x y : RegIdx) (s : State),
    Completes (.ldReg x y) s (OnlyWrites x (s.readV y) s) ∧
    Completes (.orReg x y) s (fun t => OnlyWrites x (t.readV x) s t ∧
      ∀ b, (t.readV x).getLsbD b = ((s.readV x).getLsbD b || (s.readV y).getLsbD b)) ∧
    Completes (.andReg x y) s (fun t => OnlyWrites x (t.readV x) s t ∧
      ∀ b, (t.readV x).getLsbD b = ((s.readV x).getLsbD b && (s.readV y).getLsbD b)) ∧
    Completes (.xorReg x y) s (fun t => OnlyWrites x (t.readV x) s t ∧
      ∀ b, (t.readV x).getLsbD b = ((s.readV x).getLsbD b ^^ (s.readV y).getLsbD b))

/-- R166, R173, with the order of R172 (D20): `8xy4` gives the sum modulo 256 and the carry. -/
def Obligations.AddSetsSumAndCarry : Prop :=
  ∀ (x y : RegIdx) (s : State),
    Completes (.addReg x y) s (OnlyWritesResultFlag x (((s.readV x).toNat + (s.readV y).toNat) % 256)
      ((s.readV x).toNat + (s.readV y).toNat > 255) s)

/-- R167, R169, R173, with the order of R172 (D20, G2): `8xy5` and `8xy7` give the difference modulo 256, and 1 in `VF`
exactly when there is no borrow. -/
def Obligations.SubtractionsSetDifferenceAndNotBorrow : Prop :=
  ∀ (x y : RegIdx) (s : State),
    Completes (.subReg x y) s (OnlyWritesResultFlag x
      (if (s.readV x).toNat ≥ (s.readV y).toNat then (s.readV x).toNat - (s.readV y).toNat
       else (s.readV x).toNat + 256 - (s.readV y).toNat) ((s.readV x).toNat ≥ (s.readV y).toNat) s) ∧
    Completes (.subnReg x y) s (OnlyWritesResultFlag x
      (if (s.readV y).toNat ≥ (s.readV x).toNat then (s.readV y).toNat - (s.readV x).toNat
       else (s.readV y).toNat + 256 - (s.readV x).toNat) ((s.readV y).toNat ≥ (s.readV x).toNat) s)

/-- R168, R170, R174, with the order of R172 (D17, D20, G2, G3): under either shift source, `8xy6` halves the operand and
`8xyE` doubles it modulo 256, and `VF` receives the bit moved out. -/
def Obligations.ShiftsMoveOneBitIntoVF : Prop :=
  ∀ (x y : RegIdx) (s : State) (v : Byte),
    (s.quirks.shiftSrc = .vx ∧ v = s.readV x ∨ s.quirks.shiftSrc = .vy ∧ v = s.readV y) →
    Completes (.shr x y) s (OnlyWritesResultFlag x (v.toNat / 2) (v.toNat % 2 = 1) s) ∧
    Completes (.shl x y) s (OnlyWritesResultFlag x (v.toNat * 2 % 256) (v.toNat ≥ 128) s)

/-- R171 (D25; assumption 2): `Cxkk` writes a random byte under the mask; the byte is the next one of a sequence of which
nothing is known, so no two executions use the same draw. -/
def Obligations.RandomWritesAMaskedFreshDraw : Prop :=
  ∀ (x : RegIdx) (kk : Byte) (s : State),
    Completes (.rnd x kk) s fun t => (∀ b, (t.readV x).getLsbD b = ((Config.rnd s.draws).getLsbD b && kk.getLsbD b)) ∧
      t.draws = s.draws + 1 ∧ RegsKeptExcept [x] s t ∧ t.PC = s.PC + 2#16 ∧ KeptExcept [.V, .PC, .draws] s t

/-! ### Address register and memory -/

/-- R190: `Annn` loads all 12 bits of `nnn` into `I` and changes nothing else. -/
def Obligations.LoadIndexKeepsTwelveBits : Prop :=
  ∀ (nnn : Imm12) (s : State), EncodedAs (.ldI nnn) 0xA000 0xF000 ∧
    Completes (.ldI nnn) s fun t => t.I.toNat = nnn.toNat ∧ t.PC = s.PC + 2#16 ∧ KeptExcept [.I, .PC] s t

/-- R191 (D10, D18): `Fx1E` adds `Vx` to `I` modulo 4096; `VF` is written, with the overflow beyond 0xFFF, only under
`Q_FX1E_VF`. -/
def Obligations.AddToIndexIsModulo4096 : Prop :=
  ∀ (x : RegIdx) (s : State),
    Completes (.addIVx x) s fun t => t.I.toNat = (s.I.toNat + (s.readV x).toNat) % 4096 ∧
      (s.quirks.fx1eVf = true →
        (t.readV vF).toNat = if s.I.toNat + (s.readV x).toNat > 0xFFF then 1 else 0) ∧
      (s.quirks.fx1eVf = false → t.readV vF = s.readV vF) ∧
      RegsKeptExcept [vF] s t ∧ t.PC = s.PC + 2#16 ∧ KeptExcept [.I, .V, .PC] s t

/-- R192 (D26): `Fx29` computes `0x050 + 5 * Vx` from the whole of `Vx`. -/
def Obligations.GlyphAddressUsesTheWholeRegister : Prop :=
  ∀ (x : RegIdx) (s : State),
    Completes (.ldFVx x) s fun t => t.I.toNat = 0x050 + 5 * (s.readV x).toNat ∧ t.PC = s.PC + 2#16 ∧
      KeptExcept [.I, .PC] s t

/-- R193, R63 (D11): `Fx33` stores three decimal digits whose value is `Vx` at `I`, `I + 1`, `I + 2` modulo 4096, and
changes no other byte, no register, and not `I`. Memory in canonical form is the invariant `Inv` of
`StepKeepsTheInvariant`. -/
def Obligations.BcdStoresTheDecimalDigits : Prop :=
  ∀ (x : RegIdx) (s : State), s.mem.wf = true →
    Completes (.ldBVx x) s fun t =>
      (t.memRead s.I.toNat).toNat * 100 + (t.memRead (s.I.toNat + 1)).toNat * 10 +
          (t.memRead (s.I.toNat + 2)).toNat = (s.readV x).toNat ∧
      (t.memRead s.I.toNat).toNat ≤ 2 ∧ (t.memRead (s.I.toNat + 1)).toNat ≤ 9 ∧
      (t.memRead (s.I.toNat + 2)).toNat ≤ 9 ∧
      (∀ a, s.dataAddr 0 = a → ∀ n, (∀ k, k < 3 → (a + k) % 4096 ≠ n % 4096) → t.memRead n = s.memRead n) ∧
      t.PC = s.PC + 2#16 ∧ KeptExcept [.mem, .PC] s t

/-- R194, R63, R196 (D11, D26): `Fx55` stores `V0` to `Vx` from `I` on, modulo 4096, and changes no other byte, no
register, and not `I`. -/
def Obligations.StoreRegistersWritesExactlyTheirBytes : Prop :=
  ∀ (x : RegIdx) (s : State), s.mem.wf = true →
    Completes (.stRegs x) s fun t =>
      (∀ r : RegIdx, r ≤ x → t.memRead (s.I.toNat + r.val) = s.readV r) ∧
      (∀ a, s.dataAddr 0 = a → ∀ n, (∀ k, k < x.val + 1 → (a + k) % 4096 ≠ n % 4096) → t.memRead n = s.memRead n) ∧
      t.PC = s.PC + 2#16 ∧ KeptExcept [.mem, .PC] s t

/-- R195, R63, R196 (D11, D26): `Fx65` loads `V0` to `Vx` from `I` on, modulo 4096, and changes no other register, no
memory, and not `I`. -/
def Obligations.LoadRegistersReadsTheirBytes : Prop :=
  ∀ (x : RegIdx) (s : State),
    Completes (.ldRegs x) s fun t =>
      (∀ r : RegIdx, r ≤ x → t.readV r = s.memRead (s.I.toNat + r.val)) ∧ (∀ r : RegIdx, x < r → t.readV r = s.readV r) ∧
      t.PC = s.PC + 2#16 ∧ KeptExcept [.V, .PC] s t

/-- R194, R195: registers dumped by `Fx55` and loaded by `Fx65` from the same `I` are as they were, whatever stood in them
between. -/
def Obligations.StoreThenLoadRestoresTheRegisters : Prop :=
  ∀ (x : RegIdx) (s t t' u : State), s.mem.wf = true → exec (.stRegs x) s = .next t →
    t'.I = t.I → t'.mem = t.mem → exec (.ldRegs x) t' = .next u → ∀ r : RegIdx, r ≤ x → u.readV r = s.readV r

/-- R73, R194, R65: a store to the very next instruction is seen by the next fetch, the lower-numbered register giving the
high byte. -/
def Obligations.StoreToTheNextInstructionIsFetched : Prop :=
  ∀ (x : RegIdx) (s : State), s.mem.wf = true → 1 ≤ x.val → s.I = s.PC + 2#16 →
    Completes (.stRegs x) s fun t => t.memReadWord t.PC.toNat = wordOfBytes (s.readV 0) (s.readV 1)

/-! ### Display -/

/-- R210: `00E0` sets every cell to 0 and changes nothing else; `VF` is not written. -/
def Obligations.ClearBlanksEveryCell : Prop :=
  EncodedAs .cls 0x00E0 0xFFFF ∧ ∀ s : State,
    Completes .cls s fun t => (∀ y x, t.fb.cell y x = false) ∧ t.PC = s.PC + 2#16 ∧ KeptExcept [.fb, .PC] s t

/-- R211, R212, R214 (D19, D21, D22): under either vertical policy, `Dxyn` turns over exactly the cells that a sprite bit
lands on, for every origin and height, and changes nothing but the framebuffer, `VF` and `PC`. -/
def Obligations.DrawTogglesExactlyTheCoveredCells : Prop :=
  ∀ (x y : RegIdx) (n : Nibble) (s : State),
    Completes (.drw x y n) s fun t =>
      (∀ yy xx, t.fb.cell yy xx ≠ s.fb.cell yy xx ↔
        SpriteCovers s (s.readV x).toNat (s.readV y).toNat n.toNat yy xx) ∧
      RegsKeptExcept [vF] s t ∧ t.PC = s.PC + 2#16 ∧ KeptExcept [.fb, .V, .PC] s t

/-- R211, R213 (D19, D21, D22): `VF` is 1 after `Dxyn` if a covered cell was on before, else 0. -/
def Obligations.DrawFlagsACollision : Prop :=
  ∀ (x y : RegIdx) (n : Nibble) (s : State),
    Completes (.drw x y n) s fun t =>
      ((∃ yy xx, SpriteCovers s (s.readV x).toNat (s.readV y).toNat n.toNat yy xx ∧ s.fb.cell yy xx = true) →
        (t.readV vF).toNat = 1) ∧
      (¬ (∃ yy xx, SpriteCovers s (s.readV x).toNat (s.readV y).toNat n.toNat yy xx ∧ s.fb.cell yy xx = true) →
        (t.readV vF).toNat = 0)

/-- R211(e) and C7: a sprite drawn twice at the same place restores the framebuffer, and the second draw sets `VF` exactly
when the first turned some cell on. -/
def Obligations.DrawingTwiceRestoresTheFramebuffer : Prop :=
  ∀ (x y : RegIdx) (n : Nibble) (s t u : State), exec (.drw x y n) s = .next t → exec (.drw x y n) t = .next u →
    t.readV x = s.readV x → t.readV y = s.readV y →
    (∀ yy xx, u.fb.cell yy xx = s.fb.cell yy xx) ∧
    ((u.readV vF).toNat = 1 ↔ ∃ yy xx, s.fb.cell yy xx = false ∧ t.fb.cell yy xx = true)

/-- R29, R39 (D30): the snapshot is row-major: 2048 bits, the cell `fb[y][x]` at index `64 * y + x`. -/
def Obligations.SnapshotIsRowMajor : Prop :=
  ∀ (s : State), s.snapshot.length = 2048 ∧
    ∀ (y : Fin 32) (x : Fin 64), s.snapshot[64 * y.val + x.val]? = some (s.fb.cell y x)

/-! ### Keys, timers, host -/

/-- R230, R231, R236 (D23, G4): the key skips test the latch that the low nibble of `Vx` selects. -/
def Obligations.KeySkipsTestTheSelectedLatch : Prop :=
  ∀ (x : RegIdx) (k : KeyIdx) (s : State), k.val = (s.readV x).toNat % 16 →
    Completes (.skp x) s (OnlySkips (s.keyDown k = true) s) ∧
    Completes (.sknp x) s (OnlySkips (s.keyDown k = false) s)

/-- R232: `Fx0A` enters the wait for a key, advances `PC`, and changes nothing else, `Vx` included. -/
def Obligations.WaitForKeyEntersTheWait : Prop :=
  ∀ (x : RegIdx) (s : State),
    Completes (.ldVxK x) s fun t => t.mode = .awaitingKey x ∧ t.PC = s.PC + 2#16 ∧ KeptExcept [.mode, .PC] s t

/-- R266, R267, R260 (D24): a key event sets the latch of its key; it ends a key wait, with the key's number in the
awaited register, exactly when it is a press of a key that was up; nothing else changes, and `VF` may be the register. -/
def Obligations.KeyEventsLatchAndCompleteTheWait : Prop :=
  ∀ (s : State) (k : KeyIdx) (pressed : Bool) (rest : List Event), s.inputs = .key k pressed :: rest →
    s.isHalted = false →
    ∃ t, step s = .next t ∧ t.inputs = rest ∧ t.keyDown k = pressed ∧ (∀ j, j ≠ k → t.keyDown j = s.keyDown j) ∧
      (∀ r, s.mode = .awaitingKey r → pressed = true → s.keyDown k = false →
        t.mode = .running ∧ (t.readV r).toNat = k.val ∧ RegsKeptExcept [r] s t ∧
          KeptExcept [.keys, .V, .mode, .inputs] s t) ∧
      ((s.mode = .running ∨ pressed = false ∨ s.keyDown k = true) → KeptExcept [.keys, .inputs] s t)

/-- R233, R234, R235, R264 (G5): the three timer moves, and the audio output, which follows `ST` at once. -/
def Obligations.TimerMovesCopyTheWholeByte : Prop :=
  ∀ (x : RegIdx) (s : State),
    Completes (.ldVxDt x) s (OnlyWrites x s.DT s) ∧
    Completes (.ldDtVx x) s (fun t => t.DT = s.readV x ∧ t.PC = s.PC + 2#16 ∧ KeptExcept [.DT, .PC] s t) ∧
    Completes (.ldStVx x) s (fun t => t.ST = s.readV x ∧ (t.audioActive = true ↔ (s.readV x).toNat ≠ 0) ∧
      t.PC = s.PC + 2#16 ∧ KeptExcept [.ST, .PC] s t)

/-- R263, R260: a tick takes one from each timer that is not 0, in modes `Running` and `AwaitingKey` alike, and changes
nothing else. -/
def Obligations.TickCountsBothTimersDown : Prop :=
  ∀ (s : State) (rest : List Event), s.inputs = .tick :: rest → s.isHalted = false →
    ∃ t, step s = .next t ∧ t.inputs = rest ∧ t.DT.toNat = s.DT.toNat - 1 ∧ t.ST.toNat = s.ST.toNat - 1 ∧
      KeptExcept [.DT, .ST, .inputs] s t

/-- R127, R263, R271: while a key is awaited, the timers count down by the number of ticks, however many cycles fall
between them, and stop at 0; nothing else changes. -/
def Obligations.TimersCountDownThroughTheWait : Prop :=
  ∀ (es : List Event) (s : State) (r : RegIdx), s.inputs = es → s.mode = .awaitingKey r →
    (∀ e ∈ es, e = .cycle ∨ e = .tick) →
    ∃ t, core.run es.length s = .next t ∧ t.inputs = [] ∧ t.DT.toNat = s.DT.toNat - es.count .tick ∧
      t.ST.toNat = s.ST.toNat - es.count .tick ∧ KeptExcept [.DT, .ST, .inputs] s t

/-- R11, R75, R129: in one iteration of the host loop, whatever key events are polled and however many ticks are due, the
instruction runs first, from the latches as they were; then the key events act, the last one polled for a key deciding its
latch, and only a register whose key the instruction awaits may change beside the latches; then the ticks act on the timers
as the instruction left them. -/
def Obligations.LoopIterationTicksAfterTheInstruction : Prop :=
  ∀ (s t : State) (i : Instr) (polled : List (KeyIdx × Bool)) (ticksDue : Nat),
    s.inputs = loopIteration polled ticksDue → s.mode = .running → s.PC.toNat < 4096 →
    decode (s.memReadWord s.PC.toNat) = .ok i → exec i s = .next t → t.isHalted = false →
    ∃ v u, core.run (1 + polled.length) s = .next v ∧ core.run (1 + polled.length + ticksDue) s = .next u ∧
      (∀ k, v.keyDown k = latchAfter k polled (t.keyDown k)) ∧
      (t.mode = .running → KeptExcept [.keys, .inputs] t v) ∧
      (∀ r, t.mode = .awaitingKey r → RegsKeptExcept [r] t v ∧ KeptExcept [.keys, .V, .mode, .inputs] t v) ∧
      u.DT.toNat = t.DT.toNat - ticksDue ∧ u.ST.toNat = t.ST.toNat - ticksDue ∧
      KeptExcept [.DT, .ST, .inputs] v u ∧ u.inputs = []

/-- R272, R260 (D29): `QUIT` halts a machine that is not halted and changes nothing else; no fault is recorded. -/
def Obligations.QuitHaltsAndChangesNothingElse : Prop :=
  ∀ (s : State) (rest : List Event), s.inputs = .quit :: rest → s.isHalted = false →
    ∃ t, step s = .next t ∧ t.inputs = rest ∧ t.mode = .halted .quit ∧ KeptExcept [.mode, .inputs] s t

/-- R40, R61, R290, R291, R293 (D5 to D9, D33; assumptions 3, 6, 14): `RESET` with a ROM that fits gives the reset state with
that ROM, those quirks and that font, from every state, a halted one included; every address reads as the memory map
says. -/
def Obligations.ResetEstablishesTheResetState : Prop :=
  ∀ (s : State) (rom : List Byte) (q : Quirks) (f : Font) (rest : List Event),
    s.inputs = .reset rom q f :: rest → rom.length ≤ 3584 →
    ∃ t, step s = .next t ∧ (∀ r, t.readV r = 0#8) ∧ t.DT = 0#8 ∧ t.ST = 0#8 ∧ t.PC = 0x0200#16 ∧ t.I = 0x0000#16 ∧
      t.SP.val = 0 ∧ (∀ y x, t.fb.cell y x = false) ∧ (∀ k, t.keyDown k = false) ∧ t.mode = .running ∧
      t.fault = none ∧ t.quirks = q ∧ t.draws = s.draws ∧ t.inputs = rest ∧ t.mem.wf = true ∧
      ∀ a, a < 4096 → t.memRead a =
        if 0x200 ≤ a ∧ a < 0x200 + rom.length then rom.getD (a - 0x200) 0#8
        else if 0x050 ≤ a ∧ a < 0x0A0 then f.toList.getD (a - 0x050) 0#8
        else 0#8

/-- Assumption 15: the state with a fetch word placed runs exactly that word's instruction at its next step. -/
def Obligations.PlacedWordIsTheNextInstruction : Prop :=
  ∀ (s : State) (w : Nat) (i : Instr), s.mem.wf = true → decodeTableWord 16 w = some i →
    step (s.withFetchWord 16 w) = exec i ((s.withFetchWord 16 w).setInputs s.inputs)
end

