-- ==== Sys2Proof/Laws/Encoding.lean ====
section
/-! SUPPORT. What the fields of a word built by one of the formats of 30_encoding R92 are. -/

namespace Sys2Proof

@[simp] theorem regOfNibble_nibbleOfReg (r : RegIdx) : regOfNibble (nibbleOfReg r) = r := by
  revert r; decide

@[simp] theorem nibbleOfReg_regOfNibble (n : Nibble) : nibbleOfReg (regOfNibble n) = n := by
  simp [nibbleOfReg, regOfNibble]

theorem formatA_bit (op : Nibble) (nnn : Imm12) (i : Nat) :
    (formatA op nnn).getLsbD i = if i < 12 then nnn.getLsbD i else op.getLsbD (i - 12) :=
  BitVec.getLsbD_append.trans (by simp)

theorem formatXK_bit (op : Nibble) (x : RegIdx) (kk : Byte) (i : Nat) :
    (formatXK op x kk).getLsbD i =
      if i < 8 then kk.getLsbD i else if i < 12 then (nibbleOfReg x).getLsbD (i - 8) else op.getLsbD (i - 12) := by
  refine (formatA_bit op _ i).trans ?_
  have h : (nibbleOfReg x ++ kk : BitVec 12).getLsbD i =
      if i < 8 then kk.getLsbD i else (nibbleOfReg x).getLsbD (i - 8) := BitVec.getLsbD_append.trans (by simp)
  rw [h]
  split <;> split <;> first | rfl | omega

theorem formatXYN_bit (op : Nibble) (x y : RegIdx) (n : Nibble) (i : Nat) :
    (formatXYN op x y n).getLsbD i =
      if i < 4 then n.getLsbD i else if i < 8 then (nibbleOfReg y).getLsbD (i - 4)
      else if i < 12 then (nibbleOfReg x).getLsbD (i - 8) else op.getLsbD (i - 12) := by
  refine (formatXK_bit op x _ i).trans ?_
  have h : (nibbleOfReg y ++ n : BitVec 8).getLsbD i =
      if i < 4 then n.getLsbD i else (nibbleOfReg y).getLsbD (i - 4) := BitVec.getLsbD_append.trans (by simp)
  rw [h]
  by_cases h4 : i < 4
  · simp [h4, show i < 8 by omega]
  · simp [h4]

@[simp] theorem opcodeField_formatA (op : Nibble) (nnn : Imm12) : opcodeField (formatA op nnn) = op := by
  apply BitVec.eq_of_getLsbD_eq
  intro i hi
  have h : ¬ 12 + i < 12 := by omega
  have h' : 12 + i - 12 = i := by omega
  simp only [opcodeField, BitVec.getLsbD_extractLsb', hi, formatA_bit, h, h', decide_true, if_false, Bool.true_and]

@[simp] theorem nnnField_formatA (op : Nibble) (nnn : Imm12) : nnnField (formatA op nnn) = nnn := by
  apply BitVec.eq_of_getLsbD_eq
  intro i hi
  simp only [nnnField, BitVec.getLsbD_extractLsb', hi, formatA_bit, Nat.zero_add, decide_true, if_true, Bool.true_and]

@[simp] theorem opcodeField_formatXK (op : Nibble) (x : RegIdx) (kk : Byte) : opcodeField (formatXK op x kk) = op :=
  opcodeField_formatA op _

@[simp] theorem xField_formatXK (op : Nibble) (x : RegIdx) (kk : Byte) : xField (formatXK op x kk) = x := by
  have : (formatXK op x kk).extractLsb' 8 4 = nibbleOfReg x := by
    apply BitVec.eq_of_getLsbD_eq
    intro i hi
    have h : ¬ 8 + i < 8 := by omega
    have h' : 8 + i < 12 := by omega
    have h'' : 8 + i - 8 = i := by omega
    simp only [BitVec.getLsbD_extractLsb', hi, formatXK_bit, h, h', h'', decide_true, if_false, if_true, Bool.true_and]
  rw [xField, this, regOfNibble_nibbleOfReg]

@[simp] theorem kkField_formatXK (op : Nibble) (x : RegIdx) (kk : Byte) : kkField (formatXK op x kk) = kk := by
  apply BitVec.eq_of_getLsbD_eq
  intro i hi
  simp only [kkField, BitVec.getLsbD_extractLsb', hi, formatXK_bit, Nat.zero_add, decide_true, if_true, Bool.true_and]

@[simp] theorem opcodeField_formatXYN (op : Nibble) (x y : RegIdx) (n : Nibble) :
    opcodeField (formatXYN op x y n) = op :=
  opcodeField_formatA op _

@[simp] theorem xField_formatXYN (op : Nibble) (x y : RegIdx) (n : Nibble) : xField (formatXYN op x y n) = x :=
  xField_formatXK op x _

@[simp] theorem yField_formatXYN (op : Nibble) (x y : RegIdx) (n : Nibble) : yField (formatXYN op x y n) = y := by
  have : (formatXYN op x y n).extractLsb' 4 4 = nibbleOfReg y := by
    apply BitVec.eq_of_getLsbD_eq
    intro i hi
    have h : ¬ 4 + i < 4 := by omega
    have h' : 4 + i < 8 := by omega
    have h'' : 4 + i - 4 = i := by omega
    simp only [BitVec.getLsbD_extractLsb', hi, formatXYN_bit, h, h', h'', decide_true, if_false, if_true, Bool.true_and]
  rw [yField, this, regOfNibble_nibbleOfReg]

@[simp] theorem nField_formatXYN (op : Nibble) (x y : RegIdx) (n : Nibble) : nField (formatXYN op x y n) = n := by
  apply BitVec.eq_of_getLsbD_eq
  intro i hi
  simp only [nField, BitVec.getLsbD_extractLsb', hi, formatXYN_bit, Nat.zero_add, decide_true, if_true, Bool.true_and]

/-- A word is its two bytes, high byte first (20_memory R64). -/
@[simp] theorem wordOfBytes_high_low (iw : Word) : wordOfBytes (highByte iw) (lowByte iw) = iw := by
  apply BitVec.eq_of_getLsbD_eq
  intro i hi
  refine BitVec.getLsbD_append.trans ?_
  simp only [highByte, lowByte, BitVec.getLsbD_extractLsb', Nat.zero_add]
  split
  · simp_all
  · have h : i - 8 < 8 := by omega
    have h' : 8 + (i - 8) = i := by omega
    simp only [h, h', decide_true, Bool.true_and]

end Sys2Proof
end

