-- ==== Sys2Proof/Laws/State.lean ====
section
/-! SUPPORT. One lemma per field, and per reader, for each update of State (all true by rfl), so that no later proof
unfolds a record update. -/

namespace Sys2Proof.Machine

variable (s : State)

/-! ### writeV -/

@[simp] theorem State.writeV_V (r : RegIdx) (b : Byte) : (s.writeV r b).V = s.V.set r.val b := rfl
@[simp] theorem State.writeV_I (r : RegIdx) (b : Byte) : (s.writeV r b).I = s.I := rfl
@[simp] theorem State.writeV_PC (r : RegIdx) (b : Byte) : (s.writeV r b).PC = s.PC := rfl
@[simp] theorem State.writeV_stack (r : RegIdx) (b : Byte) : (s.writeV r b).stack = s.stack := rfl
@[simp] theorem State.writeV_SP (r : RegIdx) (b : Byte) : (s.writeV r b).SP = s.SP := rfl
@[simp] theorem State.writeV_DT (r : RegIdx) (b : Byte) : (s.writeV r b).DT = s.DT := rfl
@[simp] theorem State.writeV_ST (r : RegIdx) (b : Byte) : (s.writeV r b).ST = s.ST := rfl
@[simp] theorem State.writeV_fb (r : RegIdx) (b : Byte) : (s.writeV r b).fb = s.fb := rfl
@[simp] theorem State.writeV_keys (r : RegIdx) (b : Byte) : (s.writeV r b).keys = s.keys := rfl
@[simp] theorem State.writeV_mem (r : RegIdx) (b : Byte) : (s.writeV r b).mem = s.mem := rfl
@[simp] theorem State.writeV_mode (r : RegIdx) (b : Byte) : (s.writeV r b).mode = s.mode := rfl
@[simp] theorem State.writeV_fault (r : RegIdx) (b : Byte) : (s.writeV r b).fault = s.fault := rfl
@[simp] theorem State.writeV_quirks (r : RegIdx) (b : Byte) : (s.writeV r b).quirks = s.quirks := rfl
@[simp] theorem State.writeV_draws (r : RegIdx) (b : Byte) : (s.writeV r b).draws = s.draws := rfl
@[simp] theorem State.writeV_inputs (r : RegIdx) (b : Byte) : (s.writeV r b).inputs = s.inputs := rfl
@[simp] theorem State.memRead_writeV (r : RegIdx) (b : Byte) (n : Nat) : (s.writeV r b).memRead n = s.memRead n := rfl
@[simp] theorem State.keyDown_writeV (r : RegIdx) (b : Byte) (j : KeyIdx) : (s.writeV r b).keyDown j = s.keyDown j := rfl
@[simp] theorem State.pcNext_writeV (r : RegIdx) (b : Byte) : (s.writeV r b).pcNext = s.pcNext := rfl
@[simp] theorem State.dataAddr_writeV (r : RegIdx) (b : Byte) (n : Nat) : (s.writeV r b).dataAddr n = s.dataAddr n := rfl
@[simp] theorem State.readAtI_writeV (r : RegIdx) (b : Byte) (n : Nat) : (s.writeV r b).readAtI n = s.readAtI n := rfl
@[simp] theorem State.isHalted_writeV (r : RegIdx) (b : Byte) : (s.writeV r b).isHalted = s.isHalted := rfl

/-! ### setI -/

@[simp] theorem State.setI_V (a : Word) : (s.setI a).V = s.V := rfl
@[simp] theorem State.setI_I (a : Word) : (s.setI a).I = a := rfl
@[simp] theorem State.setI_PC (a : Word) : (s.setI a).PC = s.PC := rfl
@[simp] theorem State.setI_stack (a : Word) : (s.setI a).stack = s.stack := rfl
@[simp] theorem State.setI_SP (a : Word) : (s.setI a).SP = s.SP := rfl
@[simp] theorem State.setI_DT (a : Word) : (s.setI a).DT = s.DT := rfl
@[simp] theorem State.setI_ST (a : Word) : (s.setI a).ST = s.ST := rfl
@[simp] theorem State.setI_fb (a : Word) : (s.setI a).fb = s.fb := rfl
@[simp] theorem State.setI_keys (a : Word) : (s.setI a).keys = s.keys := rfl
@[simp] theorem State.setI_mem (a : Word) : (s.setI a).mem = s.mem := rfl
@[simp] theorem State.setI_mode (a : Word) : (s.setI a).mode = s.mode := rfl
@[simp] theorem State.setI_fault (a : Word) : (s.setI a).fault = s.fault := rfl
@[simp] theorem State.setI_quirks (a : Word) : (s.setI a).quirks = s.quirks := rfl
@[simp] theorem State.setI_draws (a : Word) : (s.setI a).draws = s.draws := rfl
@[simp] theorem State.setI_inputs (a : Word) : (s.setI a).inputs = s.inputs := rfl
@[simp] theorem State.readV_setI (a : Word) (q : RegIdx) : (s.setI a).readV q = s.readV q := rfl
@[simp] theorem State.memRead_setI (a : Word) (n : Nat) : (s.setI a).memRead n = s.memRead n := rfl
@[simp] theorem State.keyDown_setI (a : Word) (j : KeyIdx) : (s.setI a).keyDown j = s.keyDown j := rfl
@[simp] theorem State.pcNext_setI (a : Word) : (s.setI a).pcNext = s.pcNext := rfl
@[simp] theorem State.isHalted_setI (a : Word) : (s.setI a).isHalted = s.isHalted := rfl

/-! ### setPC -/

@[simp] theorem State.setPC_V (a : Word) : (s.setPC a).V = s.V := rfl
@[simp] theorem State.setPC_I (a : Word) : (s.setPC a).I = s.I := rfl
@[simp] theorem State.setPC_PC (a : Word) : (s.setPC a).PC = a := rfl
@[simp] theorem State.setPC_stack (a : Word) : (s.setPC a).stack = s.stack := rfl
@[simp] theorem State.setPC_SP (a : Word) : (s.setPC a).SP = s.SP := rfl
@[simp] theorem State.setPC_DT (a : Word) : (s.setPC a).DT = s.DT := rfl
@[simp] theorem State.setPC_ST (a : Word) : (s.setPC a).ST = s.ST := rfl
@[simp] theorem State.setPC_fb (a : Word) : (s.setPC a).fb = s.fb := rfl
@[simp] theorem State.setPC_keys (a : Word) : (s.setPC a).keys = s.keys := rfl
@[simp] theorem State.setPC_mem (a : Word) : (s.setPC a).mem = s.mem := rfl
@[simp] theorem State.setPC_mode (a : Word) : (s.setPC a).mode = s.mode := rfl
@[simp] theorem State.setPC_fault (a : Word) : (s.setPC a).fault = s.fault := rfl
@[simp] theorem State.setPC_quirks (a : Word) : (s.setPC a).quirks = s.quirks := rfl
@[simp] theorem State.setPC_draws (a : Word) : (s.setPC a).draws = s.draws := rfl
@[simp] theorem State.setPC_inputs (a : Word) : (s.setPC a).inputs = s.inputs := rfl
@[simp] theorem State.readV_setPC (a : Word) (q : RegIdx) : (s.setPC a).readV q = s.readV q := rfl
@[simp] theorem State.memRead_setPC (a : Word) (n : Nat) : (s.setPC a).memRead n = s.memRead n := rfl
@[simp] theorem State.keyDown_setPC (a : Word) (j : KeyIdx) : (s.setPC a).keyDown j = s.keyDown j := rfl
@[simp] theorem State.dataAddr_setPC (a : Word) (n : Nat) : (s.setPC a).dataAddr n = s.dataAddr n := rfl
@[simp] theorem State.readAtI_setPC (a : Word) (n : Nat) : (s.setPC a).readAtI n = s.readAtI n := rfl
@[simp] theorem State.isHalted_setPC (a : Word) : (s.setPC a).isHalted = s.isHalted := rfl

/-! ### setDT -/

@[simp] theorem State.setDT_V (b : Byte) : (s.setDT b).V = s.V := rfl
@[simp] theorem State.setDT_I (b : Byte) : (s.setDT b).I = s.I := rfl
@[simp] theorem State.setDT_PC (b : Byte) : (s.setDT b).PC = s.PC := rfl
@[simp] theorem State.setDT_stack (b : Byte) : (s.setDT b).stack = s.stack := rfl
@[simp] theorem State.setDT_SP (b : Byte) : (s.setDT b).SP = s.SP := rfl
@[simp] theorem State.setDT_DT (b : Byte) : (s.setDT b).DT = b := rfl
@[simp] theorem State.setDT_ST (b : Byte) : (s.setDT b).ST = s.ST := rfl
@[simp] theorem State.setDT_fb (b : Byte) : (s.setDT b).fb = s.fb := rfl
@[simp] theorem State.setDT_keys (b : Byte) : (s.setDT b).keys = s.keys := rfl
@[simp] theorem State.setDT_mem (b : Byte) : (s.setDT b).mem = s.mem := rfl
@[simp] theorem State.setDT_mode (b : Byte) : (s.setDT b).mode = s.mode := rfl
@[simp] theorem State.setDT_fault (b : Byte) : (s.setDT b).fault = s.fault := rfl
@[simp] theorem State.setDT_quirks (b : Byte) : (s.setDT b).quirks = s.quirks := rfl
@[simp] theorem State.setDT_draws (b : Byte) : (s.setDT b).draws = s.draws := rfl
@[simp] theorem State.setDT_inputs (b : Byte) : (s.setDT b).inputs = s.inputs := rfl
@[simp] theorem State.readV_setDT (b : Byte) (q : RegIdx) : (s.setDT b).readV q = s.readV q := rfl
@[simp] theorem State.memRead_setDT (b : Byte) (n : Nat) : (s.setDT b).memRead n = s.memRead n := rfl
@[simp] theorem State.keyDown_setDT (b : Byte) (j : KeyIdx) : (s.setDT b).keyDown j = s.keyDown j := rfl
@[simp] theorem State.pcNext_setDT (b : Byte) : (s.setDT b).pcNext = s.pcNext := rfl
@[simp] theorem State.dataAddr_setDT (b : Byte) (n : Nat) : (s.setDT b).dataAddr n = s.dataAddr n := rfl
@[simp] theorem State.readAtI_setDT (b : Byte) (n : Nat) : (s.setDT b).readAtI n = s.readAtI n := rfl
@[simp] theorem State.isHalted_setDT (b : Byte) : (s.setDT b).isHalted = s.isHalted := rfl

/-! ### setST -/

@[simp] theorem State.setST_V (b : Byte) : (s.setST b).V = s.V := rfl
@[simp] theorem State.setST_I (b : Byte) : (s.setST b).I = s.I := rfl
@[simp] theorem State.setST_PC (b : Byte) : (s.setST b).PC = s.PC := rfl
@[simp] theorem State.setST_stack (b : Byte) : (s.setST b).stack = s.stack := rfl
@[simp] theorem State.setST_SP (b : Byte) : (s.setST b).SP = s.SP := rfl
@[simp] theorem State.setST_DT (b : Byte) : (s.setST b).DT = s.DT := rfl
@[simp] theorem State.setST_ST (b : Byte) : (s.setST b).ST = b := rfl
@[simp] theorem State.setST_fb (b : Byte) : (s.setST b).fb = s.fb := rfl
@[simp] theorem State.setST_keys (b : Byte) : (s.setST b).keys = s.keys := rfl
@[simp] theorem State.setST_mem (b : Byte) : (s.setST b).mem = s.mem := rfl
@[simp] theorem State.setST_mode (b : Byte) : (s.setST b).mode = s.mode := rfl
@[simp] theorem State.setST_fault (b : Byte) : (s.setST b).fault = s.fault := rfl
@[simp] theorem State.setST_quirks (b : Byte) : (s.setST b).quirks = s.quirks := rfl
@[simp] theorem State.setST_draws (b : Byte) : (s.setST b).draws = s.draws := rfl
@[simp] theorem State.setST_inputs (b : Byte) : (s.setST b).inputs = s.inputs := rfl
@[simp] theorem State.readV_setST (b : Byte) (q : RegIdx) : (s.setST b).readV q = s.readV q := rfl
@[simp] theorem State.memRead_setST (b : Byte) (n : Nat) : (s.setST b).memRead n = s.memRead n := rfl
@[simp] theorem State.keyDown_setST (b : Byte) (j : KeyIdx) : (s.setST b).keyDown j = s.keyDown j := rfl
@[simp] theorem State.pcNext_setST (b : Byte) : (s.setST b).pcNext = s.pcNext := rfl
@[simp] theorem State.dataAddr_setST (b : Byte) (n : Nat) : (s.setST b).dataAddr n = s.dataAddr n := rfl
@[simp] theorem State.readAtI_setST (b : Byte) (n : Nat) : (s.setST b).readAtI n = s.readAtI n := rfl
@[simp] theorem State.isHalted_setST (b : Byte) : (s.setST b).isHalted = s.isHalted := rfl

/-! ### setMode -/

@[simp] theorem State.setMode_V (m : Mode) : (s.setMode m).V = s.V := rfl
@[simp] theorem State.setMode_I (m : Mode) : (s.setMode m).I = s.I := rfl
@[simp] theorem State.setMode_PC (m : Mode) : (s.setMode m).PC = s.PC := rfl
@[simp] theorem State.setMode_stack (m : Mode) : (s.setMode m).stack = s.stack := rfl
@[simp] theorem State.setMode_SP (m : Mode) : (s.setMode m).SP = s.SP := rfl
@[simp] theorem State.setMode_DT (m : Mode) : (s.setMode m).DT = s.DT := rfl
@[simp] theorem State.setMode_ST (m : Mode) : (s.setMode m).ST = s.ST := rfl
@[simp] theorem State.setMode_fb (m : Mode) : (s.setMode m).fb = s.fb := rfl
@[simp] theorem State.setMode_keys (m : Mode) : (s.setMode m).keys = s.keys := rfl
@[simp] theorem State.setMode_mem (m : Mode) : (s.setMode m).mem = s.mem := rfl
@[simp] theorem State.setMode_mode (m : Mode) : (s.setMode m).mode = m := rfl
@[simp] theorem State.setMode_fault (m : Mode) : (s.setMode m).fault = s.fault := rfl
@[simp] theorem State.setMode_quirks (m : Mode) : (s.setMode m).quirks = s.quirks := rfl
@[simp] theorem State.setMode_draws (m : Mode) : (s.setMode m).draws = s.draws := rfl
@[simp] theorem State.setMode_inputs (m : Mode) : (s.setMode m).inputs = s.inputs := rfl
@[simp] theorem State.readV_setMode (m : Mode) (q : RegIdx) : (s.setMode m).readV q = s.readV q := rfl
@[simp] theorem State.memRead_setMode (m : Mode) (n : Nat) : (s.setMode m).memRead n = s.memRead n := rfl
@[simp] theorem State.keyDown_setMode (m : Mode) (j : KeyIdx) : (s.setMode m).keyDown j = s.keyDown j := rfl
@[simp] theorem State.pcNext_setMode (m : Mode) : (s.setMode m).pcNext = s.pcNext := rfl
@[simp] theorem State.dataAddr_setMode (m : Mode) (n : Nat) : (s.setMode m).dataAddr n = s.dataAddr n := rfl
@[simp] theorem State.readAtI_setMode (m : Mode) (n : Nat) : (s.setMode m).readAtI n = s.readAtI n := rfl

/-! ### setFb -/

@[simp] theorem State.setFb_V (f : Framebuffer) : (s.setFb f).V = s.V := rfl
@[simp] theorem State.setFb_I (f : Framebuffer) : (s.setFb f).I = s.I := rfl
@[simp] theorem State.setFb_PC (f : Framebuffer) : (s.setFb f).PC = s.PC := rfl
@[simp] theorem State.setFb_stack (f : Framebuffer) : (s.setFb f).stack = s.stack := rfl
@[simp] theorem State.setFb_SP (f : Framebuffer) : (s.setFb f).SP = s.SP := rfl
@[simp] theorem State.setFb_DT (f : Framebuffer) : (s.setFb f).DT = s.DT := rfl
@[simp] theorem State.setFb_ST (f : Framebuffer) : (s.setFb f).ST = s.ST := rfl
@[simp] theorem State.setFb_fb (f : Framebuffer) : (s.setFb f).fb = f := rfl
@[simp] theorem State.setFb_keys (f : Framebuffer) : (s.setFb f).keys = s.keys := rfl
@[simp] theorem State.setFb_mem (f : Framebuffer) : (s.setFb f).mem = s.mem := rfl
@[simp] theorem State.setFb_mode (f : Framebuffer) : (s.setFb f).mode = s.mode := rfl
@[simp] theorem State.setFb_fault (f : Framebuffer) : (s.setFb f).fault = s.fault := rfl
@[simp] theorem State.setFb_quirks (f : Framebuffer) : (s.setFb f).quirks = s.quirks := rfl
@[simp] theorem State.setFb_draws (f : Framebuffer) : (s.setFb f).draws = s.draws := rfl
@[simp] theorem State.setFb_inputs (f : Framebuffer) : (s.setFb f).inputs = s.inputs := rfl
@[simp] theorem State.readV_setFb (f : Framebuffer) (q : RegIdx) : (s.setFb f).readV q = s.readV q := rfl
@[simp] theorem State.memRead_setFb (f : Framebuffer) (n : Nat) : (s.setFb f).memRead n = s.memRead n := rfl
@[simp] theorem State.keyDown_setFb (f : Framebuffer) (j : KeyIdx) : (s.setFb f).keyDown j = s.keyDown j := rfl
@[simp] theorem State.pcNext_setFb (f : Framebuffer) : (s.setFb f).pcNext = s.pcNext := rfl
@[simp] theorem State.dataAddr_setFb (f : Framebuffer) (n : Nat) : (s.setFb f).dataAddr n = s.dataAddr n := rfl
@[simp] theorem State.readAtI_setFb (f : Framebuffer) (n : Nat) : (s.setFb f).readAtI n = s.readAtI n := rfl
@[simp] theorem State.isHalted_setFb (f : Framebuffer) : (s.setFb f).isHalted = s.isHalted := rfl

/-! ### setKey -/

@[simp] theorem State.setKey_V (k : KeyIdx) (p : Bool) : (s.setKey k p).V = s.V := rfl
@[simp] theorem State.setKey_I (k : KeyIdx) (p : Bool) : (s.setKey k p).I = s.I := rfl
@[simp] theorem State.setKey_PC (k : KeyIdx) (p : Bool) : (s.setKey k p).PC = s.PC := rfl
@[simp] theorem State.setKey_stack (k : KeyIdx) (p : Bool) : (s.setKey k p).stack = s.stack := rfl
@[simp] theorem State.setKey_SP (k : KeyIdx) (p : Bool) : (s.setKey k p).SP = s.SP := rfl
@[simp] theorem State.setKey_DT (k : KeyIdx) (p : Bool) : (s.setKey k p).DT = s.DT := rfl
@[simp] theorem State.setKey_ST (k : KeyIdx) (p : Bool) : (s.setKey k p).ST = s.ST := rfl
@[simp] theorem State.setKey_fb (k : KeyIdx) (p : Bool) : (s.setKey k p).fb = s.fb := rfl
@[simp] theorem State.setKey_keys (k : KeyIdx) (p : Bool) : (s.setKey k p).keys = s.keys.set k.val p := rfl
@[simp] theorem State.setKey_mem (k : KeyIdx) (p : Bool) : (s.setKey k p).mem = s.mem := rfl
@[simp] theorem State.setKey_mode (k : KeyIdx) (p : Bool) : (s.setKey k p).mode = s.mode := rfl
@[simp] theorem State.setKey_fault (k : KeyIdx) (p : Bool) : (s.setKey k p).fault = s.fault := rfl
@[simp] theorem State.setKey_quirks (k : KeyIdx) (p : Bool) : (s.setKey k p).quirks = s.quirks := rfl
@[simp] theorem State.setKey_draws (k : KeyIdx) (p : Bool) : (s.setKey k p).draws = s.draws := rfl
@[simp] theorem State.setKey_inputs (k : KeyIdx) (p : Bool) : (s.setKey k p).inputs = s.inputs := rfl
@[simp] theorem State.readV_setKey (k : KeyIdx) (p : Bool) (q : RegIdx) : (s.setKey k p).readV q = s.readV q := rfl
@[simp] theorem State.memRead_setKey (k : KeyIdx) (p : Bool) (n : Nat) : (s.setKey k p).memRead n = s.memRead n := rfl
@[simp] theorem State.pcNext_setKey (k : KeyIdx) (p : Bool) : (s.setKey k p).pcNext = s.pcNext := rfl
@[simp] theorem State.dataAddr_setKey (k : KeyIdx) (p : Bool) (n : Nat) : (s.setKey k p).dataAddr n = s.dataAddr n := rfl
@[simp] theorem State.readAtI_setKey (k : KeyIdx) (p : Bool) (n : Nat) : (s.setKey k p).readAtI n = s.readAtI n := rfl
@[simp] theorem State.isHalted_setKey (k : KeyIdx) (p : Bool) : (s.setKey k p).isHalted = s.isHalted := rfl

/-! ### countDraw -/

@[simp] theorem State.countDraw_V : (s.countDraw).V = s.V := rfl
@[simp] theorem State.countDraw_I : (s.countDraw).I = s.I := rfl
@[simp] theorem State.countDraw_PC : (s.countDraw).PC = s.PC := rfl
@[simp] theorem State.countDraw_stack : (s.countDraw).stack = s.stack := rfl
@[simp] theorem State.countDraw_SP : (s.countDraw).SP = s.SP := rfl
@[simp] theorem State.countDraw_DT : (s.countDraw).DT = s.DT := rfl
@[simp] theorem State.countDraw_ST : (s.countDraw).ST = s.ST := rfl
@[simp] theorem State.countDraw_fb : (s.countDraw).fb = s.fb := rfl
@[simp] theorem State.countDraw_keys : (s.countDraw).keys = s.keys := rfl
@[simp] theorem State.countDraw_mem : (s.countDraw).mem = s.mem := rfl
@[simp] theorem State.countDraw_mode : (s.countDraw).mode = s.mode := rfl
@[simp] theorem State.countDraw_fault : (s.countDraw).fault = s.fault := rfl
@[simp] theorem State.countDraw_quirks : (s.countDraw).quirks = s.quirks := rfl
@[simp] theorem State.countDraw_draws : (s.countDraw).draws = s.draws + 1 := rfl
@[simp] theorem State.countDraw_inputs : (s.countDraw).inputs = s.inputs := rfl
@[simp] theorem State.readV_countDraw (q : RegIdx) : (s.countDraw).readV q = s.readV q := rfl
@[simp] theorem State.memRead_countDraw (n : Nat) : (s.countDraw).memRead n = s.memRead n := rfl
@[simp] theorem State.keyDown_countDraw (j : KeyIdx) : (s.countDraw).keyDown j = s.keyDown j := rfl
@[simp] theorem State.pcNext_countDraw : (s.countDraw).pcNext = s.pcNext := rfl
@[simp] theorem State.dataAddr_countDraw (n : Nat) : (s.countDraw).dataAddr n = s.dataAddr n := rfl
@[simp] theorem State.readAtI_countDraw (n : Nat) : (s.countDraw).readAtI n = s.readAtI n := rfl
@[simp] theorem State.isHalted_countDraw : (s.countDraw).isHalted = s.isHalted := rfl

/-! ### setInputs -/

@[simp] theorem State.setInputs_V (es : List Event) : (s.setInputs es).V = s.V := rfl
@[simp] theorem State.setInputs_I (es : List Event) : (s.setInputs es).I = s.I := rfl
@[simp] theorem State.setInputs_PC (es : List Event) : (s.setInputs es).PC = s.PC := rfl
@[simp] theorem State.setInputs_stack (es : List Event) : (s.setInputs es).stack = s.stack := rfl
@[simp] theorem State.setInputs_SP (es : List Event) : (s.setInputs es).SP = s.SP := rfl
@[simp] theorem State.setInputs_DT (es : List Event) : (s.setInputs es).DT = s.DT := rfl
@[simp] theorem State.setInputs_ST (es : List Event) : (s.setInputs es).ST = s.ST := rfl
@[simp] theorem State.setInputs_fb (es : List Event) : (s.setInputs es).fb = s.fb := rfl
@[simp] theorem State.setInputs_keys (es : List Event) : (s.setInputs es).keys = s.keys := rfl
@[simp] theorem State.setInputs_mem (es : List Event) : (s.setInputs es).mem = s.mem := rfl
@[simp] theorem State.setInputs_mode (es : List Event) : (s.setInputs es).mode = s.mode := rfl
@[simp] theorem State.setInputs_fault (es : List Event) : (s.setInputs es).fault = s.fault := rfl
@[simp] theorem State.setInputs_quirks (es : List Event) : (s.setInputs es).quirks = s.quirks := rfl
@[simp] theorem State.setInputs_draws (es : List Event) : (s.setInputs es).draws = s.draws := rfl
@[simp] theorem State.setInputs_inputs (es : List Event) : (s.setInputs es).inputs = es := rfl
@[simp] theorem State.readV_setInputs (es : List Event) (q : RegIdx) : (s.setInputs es).readV q = s.readV q := rfl
@[simp] theorem State.memRead_setInputs (es : List Event) (n : Nat) : (s.setInputs es).memRead n = s.memRead n := rfl
@[simp] theorem State.keyDown_setInputs (es : List Event) (j : KeyIdx) : (s.setInputs es).keyDown j = s.keyDown j := rfl
@[simp] theorem State.pcNext_setInputs (es : List Event) : (s.setInputs es).pcNext = s.pcNext := rfl
@[simp] theorem State.dataAddr_setInputs (es : List Event) (n : Nat) : (s.setInputs es).dataAddr n = s.dataAddr n := rfl
@[simp] theorem State.readAtI_setInputs (es : List Event) (n : Nat) : (s.setInputs es).readAtI n = s.readAtI n := rfl
@[simp] theorem State.isHalted_setInputs (es : List Event) : (s.setInputs es).isHalted = s.isHalted := rfl

/-! ### memWriteBytes -/

@[simp] theorem State.memWriteBytes_V (a : Nat) (bs : List Byte) : (s.memWriteBytes a bs).V = s.V := rfl
@[simp] theorem State.memWriteBytes_I (a : Nat) (bs : List Byte) : (s.memWriteBytes a bs).I = s.I := rfl
@[simp] theorem State.memWriteBytes_PC (a : Nat) (bs : List Byte) : (s.memWriteBytes a bs).PC = s.PC := rfl
@[simp] theorem State.memWriteBytes_stack (a : Nat) (bs : List Byte) : (s.memWriteBytes a bs).stack = s.stack := rfl
@[simp] theorem State.memWriteBytes_SP (a : Nat) (bs : List Byte) : (s.memWriteBytes a bs).SP = s.SP := rfl
@[simp] theorem State.memWriteBytes_DT (a : Nat) (bs : List Byte) : (s.memWriteBytes a bs).DT = s.DT := rfl
@[simp] theorem State.memWriteBytes_ST (a : Nat) (bs : List Byte) : (s.memWriteBytes a bs).ST = s.ST := rfl
@[simp] theorem State.memWriteBytes_fb (a : Nat) (bs : List Byte) : (s.memWriteBytes a bs).fb = s.fb := rfl
@[simp] theorem State.memWriteBytes_keys (a : Nat) (bs : List Byte) : (s.memWriteBytes a bs).keys = s.keys := rfl
@[simp] theorem State.memWriteBytes_mem (a : Nat) (bs : List Byte) : (s.memWriteBytes a bs).mem = s.mem.writeBytes a bs := rfl
@[simp] theorem State.memWriteBytes_mode (a : Nat) (bs : List Byte) : (s.memWriteBytes a bs).mode = s.mode := rfl
@[simp] theorem State.memWriteBytes_fault (a : Nat) (bs : List Byte) : (s.memWriteBytes a bs).fault = s.fault := rfl
@[simp] theorem State.memWriteBytes_quirks (a : Nat) (bs : List Byte) : (s.memWriteBytes a bs).quirks = s.quirks := rfl
@[simp] theorem State.memWriteBytes_draws (a : Nat) (bs : List Byte) : (s.memWriteBytes a bs).draws = s.draws := rfl
@[simp] theorem State.memWriteBytes_inputs (a : Nat) (bs : List Byte) : (s.memWriteBytes a bs).inputs = s.inputs := rfl
@[simp] theorem State.readV_memWriteBytes (a : Nat) (bs : List Byte) (q : RegIdx) : (s.memWriteBytes a bs).readV q = s.readV q := rfl
@[simp] theorem State.keyDown_memWriteBytes (a : Nat) (bs : List Byte) (j : KeyIdx) : (s.memWriteBytes a bs).keyDown j = s.keyDown j := rfl
@[simp] theorem State.pcNext_memWriteBytes (a : Nat) (bs : List Byte) : (s.memWriteBytes a bs).pcNext = s.pcNext := rfl
@[simp] theorem State.dataAddr_memWriteBytes (a : Nat) (bs : List Byte) (n : Nat) : (s.memWriteBytes a bs).dataAddr n = s.dataAddr n := rfl
@[simp] theorem State.isHalted_memWriteBytes (a : Nat) (bs : List Byte) : (s.memWriteBytes a bs).isHalted = s.isHalted := rfl

/-! ### storeAtI -/

@[simp] theorem State.storeAtI_V (bs : List Byte) : (s.storeAtI bs).V = s.V := rfl
@[simp] theorem State.storeAtI_I (bs : List Byte) : (s.storeAtI bs).I = s.I := rfl
@[simp] theorem State.storeAtI_PC (bs : List Byte) : (s.storeAtI bs).PC = s.PC := rfl
@[simp] theorem State.storeAtI_stack (bs : List Byte) : (s.storeAtI bs).stack = s.stack := rfl
@[simp] theorem State.storeAtI_SP (bs : List Byte) : (s.storeAtI bs).SP = s.SP := rfl
@[simp] theorem State.storeAtI_DT (bs : List Byte) : (s.storeAtI bs).DT = s.DT := rfl
@[simp] theorem State.storeAtI_ST (bs : List Byte) : (s.storeAtI bs).ST = s.ST := rfl
@[simp] theorem State.storeAtI_fb (bs : List Byte) : (s.storeAtI bs).fb = s.fb := rfl
@[simp] theorem State.storeAtI_keys (bs : List Byte) : (s.storeAtI bs).keys = s.keys := rfl
@[simp] theorem State.storeAtI_mem (bs : List Byte) : (s.storeAtI bs).mem = s.mem.writeBytes (s.dataAddr 0) bs := rfl
@[simp] theorem State.storeAtI_mode (bs : List Byte) : (s.storeAtI bs).mode = s.mode := rfl
@[simp] theorem State.storeAtI_fault (bs : List Byte) : (s.storeAtI bs).fault = s.fault := rfl
@[simp] theorem State.storeAtI_quirks (bs : List Byte) : (s.storeAtI bs).quirks = s.quirks := rfl
@[simp] theorem State.storeAtI_draws (bs : List Byte) : (s.storeAtI bs).draws = s.draws := rfl
@[simp] theorem State.storeAtI_inputs (bs : List Byte) : (s.storeAtI bs).inputs = s.inputs := rfl
@[simp] theorem State.readV_storeAtI (bs : List Byte) (q : RegIdx) : (s.storeAtI bs).readV q = s.readV q := rfl
@[simp] theorem State.keyDown_storeAtI (bs : List Byte) (j : KeyIdx) : (s.storeAtI bs).keyDown j = s.keyDown j := rfl
@[simp] theorem State.pcNext_storeAtI (bs : List Byte) : (s.storeAtI bs).pcNext = s.pcNext := rfl
@[simp] theorem State.dataAddr_storeAtI (bs : List Byte) (n : Nat) : (s.storeAtI bs).dataAddr n = s.dataAddr n := rfl
@[simp] theorem State.isHalted_storeAtI (bs : List Byte) : (s.storeAtI bs).isHalted = s.isHalted := rfl

/-! ### advance -/

@[simp] theorem State.advance_V : (s.advance).V = s.V := rfl
@[simp] theorem State.advance_I : (s.advance).I = s.I := rfl
@[simp] theorem State.advance_PC : (s.advance).PC = s.pcNext := rfl
@[simp] theorem State.advance_stack : (s.advance).stack = s.stack := rfl
@[simp] theorem State.advance_SP : (s.advance).SP = s.SP := rfl
@[simp] theorem State.advance_DT : (s.advance).DT = s.DT := rfl
@[simp] theorem State.advance_ST : (s.advance).ST = s.ST := rfl
@[simp] theorem State.advance_fb : (s.advance).fb = s.fb := rfl
@[simp] theorem State.advance_keys : (s.advance).keys = s.keys := rfl
@[simp] theorem State.advance_mem : (s.advance).mem = s.mem := rfl
@[simp] theorem State.advance_mode : (s.advance).mode = s.mode := rfl
@[simp] theorem State.advance_fault : (s.advance).fault = s.fault := rfl
@[simp] theorem State.advance_quirks : (s.advance).quirks = s.quirks := rfl
@[simp] theorem State.advance_draws : (s.advance).draws = s.draws := rfl
@[simp] theorem State.advance_inputs : (s.advance).inputs = s.inputs := rfl
@[simp] theorem State.readV_advance (q : RegIdx) : (s.advance).readV q = s.readV q := rfl
@[simp] theorem State.memRead_advance (n : Nat) : (s.advance).memRead n = s.memRead n := rfl
@[simp] theorem State.keyDown_advance (j : KeyIdx) : (s.advance).keyDown j = s.keyDown j := rfl
@[simp] theorem State.dataAddr_advance (n : Nat) : (s.advance).dataAddr n = s.dataAddr n := rfl
@[simp] theorem State.readAtI_advance (n : Nat) : (s.advance).readAtI n = s.readAtI n := rfl
@[simp] theorem State.isHalted_advance : (s.advance).isHalted = s.isHalted := rfl

/-! ### skipIf -/

@[simp] theorem State.skipIf_V (c : Bool) : (s.skipIf c).V = s.V := rfl
@[simp] theorem State.skipIf_I (c : Bool) : (s.skipIf c).I = s.I := rfl
@[simp] theorem State.skipIf_PC (c : Bool) : (s.skipIf c).PC = if c then s.pcNext + 2#16 else s.pcNext := rfl
@[simp] theorem State.skipIf_stack (c : Bool) : (s.skipIf c).stack = s.stack := rfl
@[simp] theorem State.skipIf_SP (c : Bool) : (s.skipIf c).SP = s.SP := rfl
@[simp] theorem State.skipIf_DT (c : Bool) : (s.skipIf c).DT = s.DT := rfl
@[simp] theorem State.skipIf_ST (c : Bool) : (s.skipIf c).ST = s.ST := rfl
@[simp] theorem State.skipIf_fb (c : Bool) : (s.skipIf c).fb = s.fb := rfl
@[simp] theorem State.skipIf_keys (c : Bool) : (s.skipIf c).keys = s.keys := rfl
@[simp] theorem State.skipIf_mem (c : Bool) : (s.skipIf c).mem = s.mem := rfl
@[simp] theorem State.skipIf_mode (c : Bool) : (s.skipIf c).mode = s.mode := rfl
@[simp] theorem State.skipIf_fault (c : Bool) : (s.skipIf c).fault = s.fault := rfl
@[simp] theorem State.skipIf_quirks (c : Bool) : (s.skipIf c).quirks = s.quirks := rfl
@[simp] theorem State.skipIf_draws (c : Bool) : (s.skipIf c).draws = s.draws := rfl
@[simp] theorem State.skipIf_inputs (c : Bool) : (s.skipIf c).inputs = s.inputs := rfl
@[simp] theorem State.readV_skipIf (c : Bool) (q : RegIdx) : (s.skipIf c).readV q = s.readV q := rfl
@[simp] theorem State.memRead_skipIf (c : Bool) (n : Nat) : (s.skipIf c).memRead n = s.memRead n := rfl
@[simp] theorem State.keyDown_skipIf (c : Bool) (j : KeyIdx) : (s.skipIf c).keyDown j = s.keyDown j := rfl
@[simp] theorem State.dataAddr_skipIf (c : Bool) (n : Nat) : (s.skipIf c).dataAddr n = s.dataAddr n := rfl
@[simp] theorem State.readAtI_skipIf (c : Bool) (n : Nat) : (s.skipIf c).readAtI n = s.readAtI n := rfl
@[simp] theorem State.isHalted_skipIf (c : Bool) : (s.skipIf c).isHalted = s.isHalted := rfl

/-! ### writeFlag -/

@[simp] theorem State.writeFlag_V (f : Bool) : (s.writeFlag f).V = s.V.set 15 (flagByte f) := rfl
@[simp] theorem State.writeFlag_I (f : Bool) : (s.writeFlag f).I = s.I := rfl
@[simp] theorem State.writeFlag_PC (f : Bool) : (s.writeFlag f).PC = s.PC := rfl
@[simp] theorem State.writeFlag_stack (f : Bool) : (s.writeFlag f).stack = s.stack := rfl
@[simp] theorem State.writeFlag_SP (f : Bool) : (s.writeFlag f).SP = s.SP := rfl
@[simp] theorem State.writeFlag_DT (f : Bool) : (s.writeFlag f).DT = s.DT := rfl
@[simp] theorem State.writeFlag_ST (f : Bool) : (s.writeFlag f).ST = s.ST := rfl
@[simp] theorem State.writeFlag_fb (f : Bool) : (s.writeFlag f).fb = s.fb := rfl
@[simp] theorem State.writeFlag_keys (f : Bool) : (s.writeFlag f).keys = s.keys := rfl
@[simp] theorem State.writeFlag_mem (f : Bool) : (s.writeFlag f).mem = s.mem := rfl
@[simp] theorem State.writeFlag_mode (f : Bool) : (s.writeFlag f).mode = s.mode := rfl
@[simp] theorem State.writeFlag_fault (f : Bool) : (s.writeFlag f).fault = s.fault := rfl
@[simp] theorem State.writeFlag_quirks (f : Bool) : (s.writeFlag f).quirks = s.quirks := rfl
@[simp] theorem State.writeFlag_draws (f : Bool) : (s.writeFlag f).draws = s.draws := rfl
@[simp] theorem State.writeFlag_inputs (f : Bool) : (s.writeFlag f).inputs = s.inputs := rfl
@[simp] theorem State.memRead_writeFlag (f : Bool) (n : Nat) : (s.writeFlag f).memRead n = s.memRead n := rfl
@[simp] theorem State.keyDown_writeFlag (f : Bool) (j : KeyIdx) : (s.writeFlag f).keyDown j = s.keyDown j := rfl
@[simp] theorem State.pcNext_writeFlag (f : Bool) : (s.writeFlag f).pcNext = s.pcNext := rfl
@[simp] theorem State.dataAddr_writeFlag (f : Bool) (n : Nat) : (s.writeFlag f).dataAddr n = s.dataAddr n := rfl
@[simp] theorem State.readAtI_writeFlag (f : Bool) (n : Nat) : (s.writeFlag f).readAtI n = s.readAtI n := rfl
@[simp] theorem State.isHalted_writeFlag (f : Bool) : (s.writeFlag f).isHalted = s.isHalted := rfl

/-! ### raise -/

@[simp] theorem State.raise_V (k : FaultKind) (iw : Word) : (s.raise k iw).V = s.V := rfl
@[simp] theorem State.raise_I (k : FaultKind) (iw : Word) : (s.raise k iw).I = s.I := rfl
@[simp] theorem State.raise_PC (k : FaultKind) (iw : Word) : (s.raise k iw).PC = s.PC := rfl
@[simp] theorem State.raise_stack (k : FaultKind) (iw : Word) : (s.raise k iw).stack = s.stack := rfl
@[simp] theorem State.raise_SP (k : FaultKind) (iw : Word) : (s.raise k iw).SP = s.SP := rfl
@[simp] theorem State.raise_DT (k : FaultKind) (iw : Word) : (s.raise k iw).DT = s.DT := rfl
@[simp] theorem State.raise_ST (k : FaultKind) (iw : Word) : (s.raise k iw).ST = s.ST := rfl
@[simp] theorem State.raise_fb (k : FaultKind) (iw : Word) : (s.raise k iw).fb = s.fb := rfl
@[simp] theorem State.raise_keys (k : FaultKind) (iw : Word) : (s.raise k iw).keys = s.keys := rfl
@[simp] theorem State.raise_mem (k : FaultKind) (iw : Word) : (s.raise k iw).mem = s.mem := rfl
@[simp] theorem State.raise_mode (k : FaultKind) (iw : Word) : (s.raise k iw).mode = .halted k.reason := rfl
@[simp] theorem State.raise_fault (k : FaultKind) (iw : Word) : (s.raise k iw).fault = some ⟨k, s.PC, iw⟩ := rfl
@[simp] theorem State.raise_quirks (k : FaultKind) (iw : Word) : (s.raise k iw).quirks = s.quirks := rfl
@[simp] theorem State.raise_draws (k : FaultKind) (iw : Word) : (s.raise k iw).draws = s.draws := rfl
@[simp] theorem State.raise_inputs (k : FaultKind) (iw : Word) : (s.raise k iw).inputs = s.inputs := rfl
@[simp] theorem State.readV_raise (k : FaultKind) (iw : Word) (q : RegIdx) : (s.raise k iw).readV q = s.readV q := rfl
@[simp] theorem State.memRead_raise (k : FaultKind) (iw : Word) (n : Nat) : (s.raise k iw).memRead n = s.memRead n := rfl
@[simp] theorem State.keyDown_raise (k : FaultKind) (iw : Word) (j : KeyIdx) : (s.raise k iw).keyDown j = s.keyDown j := rfl
@[simp] theorem State.pcNext_raise (k : FaultKind) (iw : Word) : (s.raise k iw).pcNext = s.pcNext := rfl
@[simp] theorem State.dataAddr_raise (k : FaultKind) (iw : Word) (n : Nat) : (s.raise k iw).dataAddr n = s.dataAddr n := rfl
@[simp] theorem State.readAtI_raise (k : FaultKind) (iw : Word) (n : Nat) : (s.raise k iw).readAtI n = s.readAtI n := rfl

end Sys2Proof.Machine
end

