-- ==== Sys2Proof/Laws/Registers.lean ====
section
/-! SUPPORT. What the register, flag, stack, key and framebuffer operations do, one lemma for each. -/

namespace Sys2Proof.Machine

/-- A register write changes the register written and no other (10_state R21). -/
theorem State.readV_writeV (s : State) (r q : RegIdx) (b : Byte) :
    (s.writeV r b).readV q = if r = q then b else s.readV q := by
  simp only [State.readV, State.writeV, Vector.getElem_set]
  by_cases h : r = q
  · simp [h]
  · have : r.val ≠ q.val := fun e => h (Fin.ext e)
    simp [h, this]

@[simp] theorem State.readV_writeV_same (s : State) (r : RegIdx) (b : Byte) : (s.writeV r b).readV r = b := by
  simp [State.readV_writeV]

theorem State.readV_writeV_other (s : State) {r q : RegIdx} (b : Byte) (h : r ≠ q) :
    (s.writeV r b).readV q = s.readV q := by simp [State.readV_writeV, h]

/-- After a result and a flag are written, `VF` holds the flag, `Vx` the result unless it is `VF`, and no other register
has changed (42_load_alu R172). -/
theorem State.readV_writeResultFlag (s : State) (x q : RegIdx) (res : Byte) (f : Bool) :
    (s.writeResultFlag x res f).readV q = if q = vF then flagByte f else if q = x then res else s.readV q := by
  simp only [State.writeResultFlag, State.writeFlag, State.readV_writeV, eq_comm (a := q)]

theorem flagByte_toNat (f : Bool) : (flagByte f).toNat = if f then 1 else 0 := by cases f <;> rfl

/-- Writing one key latch changes that latch and no other. -/
theorem State.keyDown_setKey (s : State) (k j : KeyIdx) (p : Bool) :
    (s.setKey k p).keyDown j = if k = j then p else s.keyDown j := by
  simp only [State.keyDown, State.setKey, Vector.getElem_set]
  by_cases h : k = j
  · simp [h]
  · have : k.val ≠ j.val := fun e => h (Fin.ext e)
    simp [h, this]

/-- A push fails exactly at depth 16 (10_state R26). -/
theorem State.push_eq_none (s : State) (a : Word) : s.push a = none ↔ s.SP.val = 16 := by
  unfold State.push
  split <;> rename_i h <;> simp <;> omega

/-- All that a push does: the entry at `SP` is written and `SP` grows by one. -/
theorem State.push_eq_some {s s' : State} {a : Word} (h : s.push a = some s') :
    ∃ hs : s.SP.val < 16, s' = { s with stack := s.stack.set s.SP.val a, SP := ⟨s.SP.val + 1, by omega⟩ } := by
  unfold State.push at h
  split at h
  · exact ⟨‹_›, (Option.some.inj h).symm⟩
  · cases h

theorem State.push_of_room (s : State) (a : Word) (h : s.SP.val < 16) :
    s.push a = some { s with stack := s.stack.set s.SP.val a, SP := ⟨s.SP.val + 1, by omega⟩ } := by
  simp [State.push, h]

/-- A pop fails exactly on an empty stack (10_state R26). -/
theorem State.pop_eq_none (s : State) : s.pop = none ↔ s.SP.val = 0 := by
  unfold State.pop
  split <;> rename_i h <;> simp <;> omega

/-- All that a pop does: it gives the entry below `SP`, and `SP` shrinks by one. -/
theorem State.pop_eq_some {s s' : State} {a : Word} (h : s.pop = some (a, s')) :
    ∃ hs : 0 < s.SP.val, a = s.stack[s.SP.val - 1] ∧ s' = { s with SP := ⟨s.SP.val - 1, by omega⟩ } := by
  unfold State.pop at h
  split at h
  · simp only [Option.some.injEq, Prod.mk.injEq] at h
    exact ⟨‹_›, h.1.symm, h.2.symm⟩
  · cases h

theorem State.pop_of_occupied (s : State) (h : 0 < s.SP.val) :
    s.pop = some (s.stack[s.SP.val - 1], { s with SP := ⟨s.SP.val - 1, by omega⟩ }) := by
  simp [State.pop, h]

/-- A toggle flips the cell it names and no other (44_display R211). -/
theorem Framebuffer.cell_toggle (f : Framebuffer) (y y' : Fin 32) (x x' : Fin 64) :
    (f.toggle y x).cell y' x' = (f.cell y' x' ^^ (decide (y = y') && decide (x = x'))) := by
  have hbit : (1#64 <<< x.val).getLsbD x'.val = decide (x = x') := by
    simp only [← BitVec.twoPow_eq, BitVec.getLsbD_twoPow]
    have := x.isLt
    simp [Fin.ext_iff, this]
  simp only [Framebuffer.cell, Framebuffer.toggle, Vector.getElem_set]
  by_cases hy : y = y'
  · subst hy; simp only [if_true, BitVec.getLsbD_xor, hbit]; simp
  · have : y.val ≠ y'.val := fun e => hy (Fin.ext e)
    simp [hy, this]

@[simp] theorem Framebuffer.cell_blank (y : Fin 32) (x : Fin 64) : Framebuffer.blank.cell y x = false := by
  simp [Framebuffer.cell, Framebuffer.blank]

/-- Loading registers below `n` writes registers below `n`, from the bytes at `I` on, and nothing else. -/
theorem State.loadRegsBelow_eq (s : State) (n : Nat) :
    (∀ q : RegIdx, (s.loadRegsBelow n).readV q = if q.val < n then s.readAtI q.val else s.readV q) ∧
      { s.loadRegsBelow n with V := s.V } = s := by
  induction n with
  | zero => simp [State.loadRegsBelow]
  | succ n ih =>
    unfold State.loadRegsBelow
    by_cases h : n < 16
    · simp only [h, dite_true]
      refine ⟨fun q => ?_, ?_⟩
      · rw [State.readV_writeV, ih.1]
        by_cases hq : (⟨n, h⟩ : RegIdx) = q
        · subst hq; simp
        · have : n ≠ q.val := fun e => hq (Fin.ext e)
          have h2 : q.val < n + 1 ↔ q.val < n := by omega
          simp [hq, h2]
      · simpa [State.writeV] using ih.2
    · simp only [h, dite_false]
      refine ⟨fun q => ?_, ih.2⟩
      have h2 : q.val < n + 1 ↔ q.val < n := by omega
      simp [ih.1, h2]

end Sys2Proof.Machine
end

