-- ==== Sys2Proof/Laws/Frame.lean ====
section
/-! SUPPORT. Frames: that `KeptExcept` composes, and what each update of State keeps. -/

namespace Sys2Proof

open Sys2Proof.Machine

theorem Part.same_refl (p : Part) (s : State) : p.Same s s := by cases p <;> simp [Part.Same]

theorem Part.same_trans {p : Part} {s t u : State} (h : p.Same s t) (h' : p.Same t u) : p.Same s u := by
  cases p <;> simp_all [Part.Same]

theorem KeptExcept.refl (l : List Part) (s : State) : KeptExcept l s s := fun p _ => p.same_refl s

theorem KeptExcept.mono {l l' : List Part} {s t : State} (h : KeptExcept l s t) (hl : l ⊆ l') : KeptExcept l' s t :=
  fun p hp => h p fun hin => hp (hl hin)

theorem KeptExcept.trans {l : List Part} {s t u : State} (h : KeptExcept l s t) (h' : KeptExcept l t u) :
    KeptExcept l s u := fun p hp => Part.same_trans (h p hp) (h' p hp)

/-- A frame may leave out a part that is the same for another reason. -/
theorem KeptExcept.remove {l : List Part} {p : Part} {s t : State} (h : KeptExcept (p :: l) s t) (hp : p.Same s t) :
    KeptExcept l s t := fun q hq => by
  by_cases e : q = p
  · exact e ▸ hp
  · exact h q (by simp [e, hq])

theorem keptExcept_writeV (s : State) (r : RegIdx) (b : Byte) : KeptExcept [.V] s (s.writeV r b) := by
  intro p hp; cases p <;> simp_all [Part.Same]

theorem keptExcept_setI (s : State) (a : Word) : KeptExcept [.I] s (s.setI a) := by
  intro p hp; cases p <;> simp_all [Part.Same]

theorem keptExcept_setPC (s : State) (a : Word) : KeptExcept [.PC] s (s.setPC a) := by
  intro p hp; cases p <;> simp_all [Part.Same]

theorem keptExcept_advance (s : State) : KeptExcept [.PC] s s.advance := keptExcept_setPC s _

theorem keptExcept_skipIf (s : State) (c : Bool) : KeptExcept [.PC] s (s.skipIf c) := keptExcept_setPC s _

theorem keptExcept_setDT (s : State) (b : Byte) : KeptExcept [.DT] s (s.setDT b) := by
  intro p hp; cases p <;> simp_all [Part.Same]

theorem keptExcept_setST (s : State) (b : Byte) : KeptExcept [.ST] s (s.setST b) := by
  intro p hp; cases p <;> simp_all [Part.Same]

theorem keptExcept_setMode (s : State) (m : Mode) : KeptExcept [.mode] s (s.setMode m) := by
  intro p hp; cases p <;> simp_all [Part.Same]

theorem keptExcept_setFb (s : State) (f : Framebuffer) : KeptExcept [.fb] s (s.setFb f) := by
  intro p hp; cases p <;> simp_all [Part.Same]

theorem keptExcept_setKey (s : State) (k : KeyIdx) (b : Bool) : KeptExcept [.keys] s (s.setKey k b) := by
  intro p hp; cases p <;> simp_all [Part.Same]

theorem keptExcept_countDraw (s : State) : KeptExcept [.draws] s s.countDraw := by
  intro p hp; cases p <;> simp_all [Part.Same]

theorem keptExcept_setInputs (s : State) (es : List Event) : KeptExcept [.inputs] s (s.setInputs es) := by
  intro p hp; cases p <;> simp_all [Part.Same]

theorem keptExcept_memWriteBytes (s : State) (a : Nat) (bs : List Byte) : KeptExcept [.mem] s (s.memWriteBytes a bs) := by
  intro p hp; cases p <;> simp_all [Part.Same]

theorem keptExcept_raise (s : State) (k : FaultKind) (iw : Word) : KeptExcept [.mode, .fault] s (s.raise k iw) := by
  intro p hp; cases p <;> simp_all [Part.Same]

theorem keptExcept_push {s t : State} {a : Word} (h : s.push a = some t) : KeptExcept [.stack, .SP] s t := by
  obtain ⟨hs, rfl⟩ := State.push_eq_some h
  intro p hp; cases p <;> simp_all [Part.Same] <;> intros <;> rfl

theorem keptExcept_pop {s t : State} {a : Word} (h : s.pop = some (a, t)) : KeptExcept [.SP] s t := by
  obtain ⟨hs, -, rfl⟩ := State.pop_eq_some h
  intro p hp; cases p <;> simp_all [Part.Same] <;> intros <;> rfl

/-- Loading registers from memory changes no part but the registers. -/
theorem keptExcept_loadRegsBelow (s : State) (n : Nat) : KeptExcept [.V] s (s.loadRegsBelow n) := by
  induction n with
  | zero => exact KeptExcept.refl _ _
  | succ n ih =>
    unfold State.loadRegsBelow
    by_cases h : n < 16
    · simp only [h, dite_true]
      exact ih.trans (keptExcept_writeV _ _ _)
    · simpa only [h, dite_false] using ih

end Sys2Proof
end

