-- ==== Sys2Proof/Laws/Memory.lean ====
section
/-! SUPPORT. The laws of memory (20_memory R63, R65, R70): a read after a write to the same address gives the byte
written, a write leaves every other address alone, and every operation keeps the canonical form. -/

namespace Sys2Proof.Machine

theorem Memory.wfFrom_mono {lo lo' : Nat} {m : Memory} (h : Memory.wfFrom lo m = true) (hl : lo' ≤ lo) :
    Memory.wfFrom lo' m = true := by
  cases m with
  | nil => rfl
  | cons e m =>
    simp only [Memory.wfFrom, Bool.and_eq_true, decide_eq_true_eq] at h ⊢
    exact ⟨⟨⟨hl.trans h.1.1.1, h.1.1.2⟩, h.1.2⟩, h.2⟩

theorem Memory.get_below {lo : Nat} {m : Memory} (h : Memory.wfFrom lo m = true) {a : Nat} (ha : a < lo) :
    m.get a = unlistedByte a := by
  induction m generalizing lo with
  | nil => rfl
  | cons e m ih =>
    simp only [Memory.wfFrom, Bool.and_eq_true, decide_eq_true_eq] at h
    have hne : e.1 ≠ a := by omega
    simp only [Memory.get, hne, if_false]
    exact ih h.2 (by omega)

/-- Reading after one write, on memory in canonical form. -/
theorem Memory.get_set {lo : Nat} {m : Memory} (h : Memory.wfFrom lo m = true) (a b : Nat) (v : Byte) :
    (m.set a v).get b = if a = b then v else m.get b := by
  induction m generalizing lo with
  | nil =>
    by_cases hab : a = b
    · subst hab
      by_cases hv : v = unlistedByte a <;> simp [Memory.set, Memory.get, hv]
    · by_cases hv : v = unlistedByte a <;> simp [Memory.set, Memory.get, hv, hab]
  | cons e m ih =>
    obtain ⟨k, c⟩ := e
    simp only [Memory.wfFrom, Bool.and_eq_true, decide_eq_true_eq] at h
    have htail : ∀ x, x ≤ k → Memory.get m x = unlistedByte x := fun x hx => Memory.get_below h.2 (by omega)
    by_cases hak : a < k
    · have hka : k ≠ a := by omega
      by_cases hv : v = unlistedByte a
      · simp only [Memory.set, hak, hv, if_true]
        by_cases hab : a = b
        · subst hab; simp [Memory.get, hka, htail a (by omega)]
        · simp [hab]
      · simp only [Memory.set, hak, hv, if_true, if_false, Memory.get]
    · by_cases hka : a = k
      · subst hka
        by_cases hv : v = unlistedByte a
        · simp only [Memory.set, hv, lt_irrefl, if_true, if_false, Memory.get]
          by_cases hab : a = b
          · subst hab; simp [htail a (by omega)]
          · simp [hab]
        · simp only [Memory.set, hv, lt_irrefl, if_true, if_false, Memory.get]
          by_cases hab : a = b <;> simp [hab]
      · simp only [Memory.set, hak, hka, if_false, Memory.get, ih h.2]
        by_cases hkb : k = b
        · have : a ≠ b := by omega
          simp [hkb, this]
        · simp [hkb]

theorem Memory.wfFrom_set {lo : Nat} {m : Memory} (h : Memory.wfFrom lo m = true) {a : Nat} (v : Byte) (hlo : lo ≤ a)
    (ha : a < Config.memSize) : Memory.wfFrom lo (m.set a v) = true := by
  induction m generalizing lo with
  | nil => by_cases hv : v = unlistedByte a <;> simp [Memory.set, Memory.wfFrom, hv, hlo, ha]
  | cons e m ih =>
    obtain ⟨k, c⟩ := e
    simp only [Memory.wfFrom, Bool.and_eq_true, decide_eq_true_eq] at h
    obtain ⟨⟨⟨h1, h2⟩, h3⟩, h4⟩ := h
    by_cases hak : a < k
    · by_cases hv : v = unlistedByte a
      · simp [Memory.set, hak, hv, Memory.wfFrom, h1, h2, h3, h4]
      · have : a + 1 ≤ k := hak
        simp [Memory.set, hak, hv, Memory.wfFrom, hlo, ha, h2, h3, h4, this]
    · by_cases hka : a = k
      · subst hka
        by_cases hv : v = unlistedByte a
        · simp only [Memory.set, hv, lt_irrefl, if_true, if_false]
          exact Memory.wfFrom_mono h4 (by omega)
        · simp [Memory.set, hv, Memory.wfFrom, h1, h2, h4]
      · simp only [Memory.set, hak, hka, if_false, Memory.wfFrom, h1, h2, h3, decide_true, Bool.true_and]
        exact ih h4 (by omega)

/-- The canonical form is canonical: memories that read alike are the same list. -/
theorem Memory.eq_of_get_eq {lo lo' : Nat} {m m' : Memory} (h : Memory.wfFrom lo m = true)
    (h' : Memory.wfFrom lo' m' = true) (hget : ∀ a, m.get a = m'.get a) : m = m' := by
  induction m generalizing lo lo' m' with
  | nil =>
    cases m' with
    | nil => rfl
    | cons e' m' =>
      simp only [Memory.wfFrom, Bool.and_eq_true, decide_eq_true_eq, bne_iff_ne] at h'
      exact absurd (by simpa [Memory.get] using (hget e'.1).symm) h'.1.2
  | cons e m ih =>
    simp only [Memory.wfFrom, Bool.and_eq_true, decide_eq_true_eq, bne_iff_ne] at h
    cases m' with
    | nil => exact absurd (by simpa [Memory.get] using hget e.1) h.1.2
    | cons e' m' =>
      simp only [Memory.wfFrom, Bool.and_eq_true, decide_eq_true_eq, bne_iff_ne] at h'
      have hk : e.1 = e'.1 := by
        rcases Nat.lt_trichotomy e.1 e'.1 with hlt | heq | hlt
        · have hb : Memory.get (e' :: m') e.1 = unlistedByte e.1 :=
            Memory.get_below (lo := e'.1) (by simp [Memory.wfFrom, h']) hlt
          exact absurd (by rw [← hb, ← hget e.1]; simp [Memory.get]) h.1.2
        · exact heq
        · have hb : Memory.get (e :: m) e'.1 = unlistedByte e'.1 :=
            Memory.get_below (lo := e.1) (by simp [Memory.wfFrom, h]) hlt
          exact absurd (by rw [← hb, hget e'.1]; simp [Memory.get]) h'.1.2
      have hc : e.2 = e'.2 := by simpa [Memory.get, hk] using hget e.1
      have hm : m = m' := by
        refine ih h.2 h'.2 fun a => ?_
        by_cases ha : a ≤ e.1
        · rw [Memory.get_below h.2 (by omega), Memory.get_below h'.2 (by omega)]
        · have := hget a
          simpa [Memory.get, show e.1 ≠ a by omega, show e'.1 ≠ a by omega] using this
      rw [hm, Prod.ext hk hc]

theorem wrapAddr_lt (a : Nat) : wrapAddr a < Config.memSize := Nat.mod_lt _ (by decide)

theorem Memory.wf_write {m : Memory} (h : m.wf = true) (a : Nat) (v : Byte) : (m.write a v).wf = true :=
  Memory.wfFrom_set h v (Nat.zero_le _) (wrapAddr_lt a)

theorem Memory.get_write {m : Memory} (h : m.wf = true) (a b : Nat) (v : Byte) :
    (m.write a v).get b = if wrapAddr a = b then v else m.get b :=
  Memory.get_set h (wrapAddr a) b v

theorem Memory.wf_writeBytes {m : Memory} (h : m.wf = true) (a : Nat) (bs : List Byte) :
    (m.writeBytes a bs).wf = true := by
  induction bs generalizing m a with
  | nil => exact h
  | cons b bs ih => exact ih (Memory.wf_write h a b) (a + 1)

/-- An address that no byte of the block lands on reads as before. -/
theorem Memory.get_writeBytes_outside {m : Memory} (h : m.wf = true) (a : Nat) (bs : List Byte) {n : Nat}
    (hn : ∀ k, k < bs.length → wrapAddr (a + k) ≠ n) : (m.writeBytes a bs).get n = m.get n := by
  induction bs generalizing m a with
  | nil => rfl
  | cons b bs ih =>
    have h0 : wrapAddr a ≠ n := by simpa using hn 0 (by simp)
    rw [Memory.writeBytes, ih (Memory.wf_write h a b), Memory.get_write h, if_neg h0]
    intro k hk
    have := hn (k + 1) (by simpa using hk)
    rwa [show a + (k + 1) = a + 1 + k by omega] at this

/-- The byte at offset `k` of a block that fits into memory. -/
theorem Memory.get_writeBytes_inside {m : Memory} (h : m.wf = true) (a : Nat) (bs : List Byte)
    (hlen : bs.length ≤ Config.memSize) {k : Nat} (hk : k < bs.length) :
    (m.writeBytes a bs).get (wrapAddr (a + k)) = bs[k] := by
  induction bs generalizing m a k with
  | nil => simp at hk
  | cons b bs ih =>
    simp only [List.length_cons] at hlen hk
    cases k with
    | zero =>
      rw [Memory.writeBytes, Memory.get_writeBytes_outside (Memory.wf_write h a b), Memory.get_write h]
      · simp
      · intro j hj
        simp only [wrapAddr, Config.memSize] at *
        omega
    | succ k =>
      have := ih (Memory.wf_write h a b) (a + 1) (by omega) (k := k) (by omega)
      rw [show a + 1 + k = a + (k + 1) by omega] at this
      simpa [Memory.writeBytes] using this

/-- Copying an image into memory keeps the canonical form. -/
theorem loadImage_wf {m : Memory} (h : m.wf = true) (a : Nat) (image : List Byte) :
    (loadImage m a image).wf = true := by
  induction image generalizing a with
  | nil => exact h
  | cons b bs ih => exact Memory.wf_write (ih (a + 1)) a b

/-- What every address reads as after an image that fits is copied into memory (70_reset_and_hazards R291, R293). -/
theorem get_loadImage {m : Memory} (h : m.wf = true) (a : Nat) (image : List Byte)
    (hfit : a + image.length ≤ Config.memSize) (n : Nat) :
    (loadImage m a image).get n =
      if a ≤ n ∧ n < a + image.length then image.getD (n - a) 0#8 else m.get n := by
  induction image generalizing a with
  | nil => simp [loadImage]
  | cons b bs ih =>
    simp only [List.length_cons] at hfit ⊢
    have hw : wrapAddr a = a := Nat.mod_eq_of_lt (by omega)
    rw [loadImage, Memory.get_write (loadImage_wf h _ _), ih (a + 1) (by omega), hw]
    by_cases h1 : a = n
    · subst h1; simp
    · by_cases h2 : a + 1 ≤ n ∧ n < a + 1 + bs.length
      · obtain ⟨k, rfl⟩ : ∃ k, n = a + 1 + k := ⟨n - a - 1, by omega⟩
        simp [h1, h2, show a ≤ a + 1 + k ∧ a + 1 + k < a + (bs.length + 1) by omega,
          show a + 1 + k - a = k + 1 by omega]
      · rw [if_neg h1, if_neg h2, if_neg (by omega)]

theorem resetMemory_wf (rom : List Byte) (font : Font) : (resetMemory rom font).wf = true :=
  loadImage_wf (loadImage_wf rfl _ _) _ _

/-- The default font is what the font region reads as unlisted, so that State.reset lists nothing. -/
theorem resetMemory_default : resetMemory [] defaultFont = [] := by decide +kernel

/-! ### The same laws, of the state's reads -/

/-- What every read gives after a block of at most 4096 bytes is stored: the stored byte inside the block, and the old
byte outside it. -/
theorem State.memRead_memWriteBytes_outside {s : State} (h : s.mem.wf = true) (a : Nat) (bs : List Byte) {n : Nat}
    (hn : ∀ k, k < bs.length → wrapAddr (a + k) ≠ wrapAddr n) : (s.memWriteBytes a bs).memRead n = s.memRead n :=
  Memory.get_writeBytes_outside h a bs hn

theorem State.memRead_memWriteBytes_inside {s : State} (h : s.mem.wf = true) (a : Nat) (bs : List Byte)
    (hlen : bs.length ≤ Config.memSize) {k : Nat} (hk : k < bs.length) :
    (s.memWriteBytes a bs).memRead (a + k) = bs[k] :=
  Memory.get_writeBytes_inside h a bs hlen hk

theorem State.memRead_wrap (s : State) (a : Nat) : s.memRead (wrapAddr a) = s.memRead a := by
  simp [State.memRead, wrapAddr]

end Sys2Proof.Machine
end

