-- ==== Sys2Proof/Laws/PerInstr.lean ====
section
/-! SUPPORT. Statements made once per instruction. `RowMatch`: the encoder, written from the formats of 30_encoding R92,
agrees with the match and mask table of R95, which was written independently of it. -/

namespace Sys2Proof.Laws

theorem and_bits {w v m : Word} (h : ∀ i < 16, (w.getLsbD i && m.getLsbD i) = v.getLsbD i) : w &&& m = v := by
  apply BitVec.eq_of_getLsbD_eq
  intro i hi
  rw [BitVec.getLsbD_and]
  exact h i hi

theorem formatA_and_mask (op : Nibble) (nnn : Imm12) : formatA op nnn &&& 0xF000#16 = formatA op 0#12 := by
  apply and_bits
  intro i hi
  rw [formatA_bit, formatA_bit]
  interval_cases i <;> simp

theorem formatXYN_and_mask (op : Nibble) (x y : RegIdx) (n : Nibble) :
    formatXYN op x y n &&& 0xF00F#16 = formatXYN op 0 0 n := by
  apply and_bits
  intro i hi
  rw [formatXYN_bit, formatXYN_bit]
  interval_cases i <;> simp [nibbleOfReg]

theorem formatXK_and_mask (op : Nibble) (x : RegIdx) (kk : Byte) :
    formatXK op x kk &&& 0xF0FF#16 = formatXK op 0 kk := by
  apply and_bits
  intro i hi
  rw [formatXK_bit, formatXK_bit]
  interval_cases i <;> simp [nibbleOfReg]

namespace RowMatch

/-- The instruction's word is accepted by the row of R95 that has its mnemonic. -/
def Statement (i : Instr) : Prop :=
  ∃ r ∈ opcodeRows, r.mnemonic = i.mnemonic ∧ r.accepts (encode i) = true

theorem of_formatA (name : String) {i : Instr} {op : Nibble} {nnn : Imm12} (hm : i.mnemonic = name)
    (he : encode i = formatA op nnn)
    (hr : ⟨name, formatA op 0#12, 0xF000#16⟩ ∈ opcodeRows) : Statement i :=
  ⟨_, hr, hm.symm, by simp [OpcodeRow.accepts, he, formatA_and_mask]⟩

theorem of_formatXYN (name : String) {i : Instr} {op : Nibble} {x y : RegIdx} {n : Nibble} (hm : i.mnemonic = name)
    (he : encode i = formatXYN op x y n)
    (hr : ⟨name, formatXYN op 0 0 n, 0xF00F#16⟩ ∈ opcodeRows) : Statement i :=
  ⟨_, hr, hm.symm, by simp [OpcodeRow.accepts, he, formatXYN_and_mask]⟩

theorem of_formatXK (name : String) {i : Instr} {op : Nibble} {x : RegIdx} {kk : Byte} (hm : i.mnemonic = name)
    (he : encode i = formatXK op x kk)
    (hr : ⟨name, formatXK op 0 kk, 0xF0FF#16⟩ ∈ opcodeRows) : Statement i :=
  ⟨_, hr, hm.symm, by simp [OpcodeRow.accepts, he, formatXK_and_mask]⟩

theorem cls : Statement .cls := ⟨⟨"CLS", 0x00E0, 0xFFFF⟩, by decide, rfl, by decide⟩
theorem ret : Statement .ret := ⟨⟨"RET", 0x00EE, 0xFFFF⟩, by decide, rfl, by decide⟩
theorem jp (nnn : Imm12) : Statement (.jp nnn) :=
  of_formatA "JP_nnn" rfl rfl (by decide)
theorem call (nnn : Imm12) : Statement (.call nnn) :=
  of_formatA "CALL_nnn" rfl rfl (by decide)
theorem seImm (x : RegIdx) (kk : Byte) : Statement (.seImm x kk) :=
  of_formatA "SE_Vx__kk" rfl rfl (by decide)
theorem sneImm (x : RegIdx) (kk : Byte) : Statement (.sneImm x kk) :=
  of_formatA "SNE_Vx__kk" rfl rfl (by decide)
theorem seReg (x y : RegIdx) : Statement (.seReg x y) :=
  of_formatXYN "SE_Vx__Vy" rfl rfl (by decide)
theorem ldImm (x : RegIdx) (kk : Byte) : Statement (.ldImm x kk) :=
  of_formatA "LD_Vx__kk" rfl rfl (by decide)
theorem addImm (x : RegIdx) (kk : Byte) : Statement (.addImm x kk) :=
  of_formatA "ADD_Vx__kk" rfl rfl (by decide)
theorem ldReg (x y : RegIdx) : Statement (.ldReg x y) :=
  of_formatXYN "LD_Vx__Vy" rfl rfl (by decide)
theorem orReg (x y : RegIdx) : Statement (.orReg x y) :=
  of_formatXYN "OR_Vx__Vy" rfl rfl (by decide)
theorem andReg (x y : RegIdx) : Statement (.andReg x y) :=
  of_formatXYN "AND_Vx__Vy" rfl rfl (by decide)
theorem xorReg (x y : RegIdx) : Statement (.xorReg x y) :=
  of_formatXYN "XOR_Vx__Vy" rfl rfl (by decide)
theorem addReg (x y : RegIdx) : Statement (.addReg x y) :=
  of_formatXYN "ADD_Vx__Vy" rfl rfl (by decide)
theorem subReg (x y : RegIdx) : Statement (.subReg x y) :=
  of_formatXYN "SUB_Vx__Vy" rfl rfl (by decide)
theorem shr (x y : RegIdx) : Statement (.shr x y) :=
  of_formatXYN "SHR_Vx__Vy" rfl rfl (by decide)
theorem subnReg (x y : RegIdx) : Statement (.subnReg x y) :=
  of_formatXYN "SUBN_Vx__Vy" rfl rfl (by decide)
theorem shl (x y : RegIdx) : Statement (.shl x y) :=
  of_formatXYN "SHL_Vx__Vy" rfl rfl (by decide)
theorem sneReg (x y : RegIdx) : Statement (.sneReg x y) :=
  of_formatXYN "SNE_Vx__Vy" rfl rfl (by decide)
theorem ldI (nnn : Imm12) : Statement (.ldI nnn) :=
  of_formatA "LD_I__nnn" rfl rfl (by decide)
theorem jpV0 (nnn : Imm12) : Statement (.jpV0 nnn) :=
  of_formatA "JP_V0__nnn" rfl rfl (by decide)
theorem rnd (x : RegIdx) (kk : Byte) : Statement (.rnd x kk) :=
  of_formatA "RND_Vx__kk" rfl rfl (by decide)
theorem drw (x y : RegIdx) (n : Nibble) : Statement (.drw x y n) :=
  of_formatA "DRW_Vx__Vy__n" rfl rfl (by decide)
theorem skp (x : RegIdx) : Statement (.skp x) :=
  of_formatXK "SKP_Vx" rfl rfl (by decide)
theorem sknp (x : RegIdx) : Statement (.sknp x) :=
  of_formatXK "SKNP_Vx" rfl rfl (by decide)
theorem ldVxDt (x : RegIdx) : Statement (.ldVxDt x) :=
  of_formatXK "LD_Vx__DT" rfl rfl (by decide)
theorem ldVxK (x : RegIdx) : Statement (.ldVxK x) :=
  of_formatXK "LD_Vx__K" rfl rfl (by decide)
theorem ldDtVx (x : RegIdx) : Statement (.ldDtVx x) :=
  of_formatXK "LD_DT__Vx" rfl rfl (by decide)
theorem ldStVx (x : RegIdx) : Statement (.ldStVx x) :=
  of_formatXK "LD_ST__Vx" rfl rfl (by decide)
theorem addIVx (x : RegIdx) : Statement (.addIVx x) :=
  of_formatXK "ADD_I__Vx" rfl rfl (by decide)
theorem ldFVx (x : RegIdx) : Statement (.ldFVx x) :=
  of_formatXK "LD_F__Vx" rfl rfl (by decide)
theorem ldBVx (x : RegIdx) : Statement (.ldBVx x) :=
  of_formatXK "LD_B__Vx" rfl rfl (by decide)
theorem stRegs (x : RegIdx) : Statement (.stRegs x) :=
  of_formatXK "LD__I___Vx" rfl rfl (by decide)
theorem ldRegs (x : RegIdx) : Statement (.ldRegs x) :=
  of_formatXK "LD_Vx___I" rfl rfl (by decide)

end RowMatch

end Sys2Proof.Laws
end

