-- ==== Sys2Proof/Laws/Step.lean ====
section
/-! SUPPORT. What one step can do: inversion lemmas for the cycle, the events and the step, and the induction over
reachable states. -/

namespace Sys2Proof.Machine

/-- All that a cycle can do (40_instruction_cycle R120): nothing, the end of memory, a decode fault, or one instruction. -/
theorem cycle_cases (s : State) :
    (s.mode ≠ .running ∧ cycle s = .next s) ∨
    (s.mode = .running ∧ Config.memSize ≤ s.PC.toNat ∧ cycle s = .next (s.setMode (.halted .endOfMemory))) ∨
    (s.mode = .running ∧ s.PC.toNat < Config.memSize ∧ (∃ e, decode (s.memReadWord s.PC.toNat) = .error e) ∧
      cycle s = .next (s.raise .decodeFault (s.memReadWord s.PC.toNat))) ∨
    (s.mode = .running ∧ s.PC.toNat < Config.memSize ∧ ∃ i, decode (s.memReadWord s.PC.toNat) = .ok i ∧
      cycle s = exec i s) := by
  unfold cycle
  cases hm : s.mode with
  | running =>
    by_cases hp : Config.memSize ≤ s.PC.toNat
    · simp [hp]
    · cases hd : decode (s.memReadWord s.PC.toNat) <;> simp [hp, Nat.lt_of_not_le hp]
  | awaitingKey r => simp
  | halted r => simp

theorem step_nil {s : State} (h : s.inputs = []) : step s = cycle s := by simp [step, nextEvent, h]

theorem step_cons {s : State} {e : Event} {es : List Event} (h : s.inputs = e :: es) :
    step s = handleEvent e (s.setInputs es) := by simp [step, nextEvent, h]

/-- A step is either the step of a cycle, in the state whose pending events are those that remain, or the step of
another agent. -/
theorem step_cases (s : State) :
    (∃ es, (s.inputs = .cycle :: es ∨ (s.inputs = [] ∧ es = [])) ∧ step s = cycle (s.setInputs es)) ∨
    (∃ k p es, s.inputs = .key k p :: es ∧ step s = .next (keyEvent k p (s.setInputs es))) ∨
    (∃ es, s.inputs = .tick :: es ∧ step s = .next (tick (s.setInputs es))) ∨
    (∃ es, s.inputs = .quit :: es ∧ step s = .next (quitEvent (s.setInputs es))) ∨
    (∃ rom q f es, s.inputs = .reset rom q f :: es ∧ romFits rom = true ∧
      step s = .next (resetWith rom q f (s.setInputs es))) ∨
    (∃ rom q f es, s.inputs = .reset rom q f :: es ∧ romFits rom = false ∧ step s = .fault .loadFault) := by
  match h : s.inputs with
  | [] => exact .inl ⟨[], .inr ⟨rfl, rfl⟩, by rw [step_nil h, ← h]; rfl⟩
  | .cycle :: es => exact .inl ⟨es, .inl rfl, step_cons h⟩
  | .key k p :: es => exact .inr (.inl ⟨k, p, es, rfl, step_cons h⟩)
  | .tick :: es => exact .inr (.inr (.inl ⟨es, rfl, step_cons h⟩))
  | .quit :: es => exact .inr (.inr (.inr (.inl ⟨es, rfl, step_cons h⟩)))
  | .reset rom q f :: es =>
    refine .inr (.inr (.inr (.inr ?_)))
    by_cases hr : romFits rom = true
    · exact .inl ⟨rom, q, f, es, rfl, hr, by simp [step_cons h, handleEvent, hr]⟩
    · have hr : romFits rom = false := by simpa using hr
      exact .inr ⟨rom, q, f, es, rfl, hr, by simp [step_cons h, handleEvent, hr]⟩

/-- All that a tick does to a machine that is not halted (60_exceptions R263). -/
theorem tick_of_not_halted {s : State} (h : s.isHalted = false) :
    tick s = (s.setDT (countDown s.DT)).setST (countDown s.ST) := by simp [tick, h]

theorem countDown_toNat (b : Byte) : (countDown b).toNat = b.toNat - 1 := by
  unfold countDown
  split
  · simp_all
  · rename_i h
    have : b.toNat ≠ 0 := fun e => h (BitVec.eq_of_toNat_eq (by simpa using e))
    have := b.isLt
    rw [BitVec.toNat_sub]
    simp; omega

/-- All that a key event does (60_exceptions R266, R267). -/
theorem keyEvent_cases (k : KeyIdx) (p : Bool) (s : State) :
    (s.isHalted = true ∧ keyEvent k p s = s) ∨
    (∃ r, s.mode = .awaitingKey r ∧ p = true ∧ s.keyDown k = false ∧
      keyEvent k p s = ((s.setKey k true).writeV r (byteOfKey k)).setMode .running) ∨
    (s.isHalted = false ∧ (s.mode = .running ∨ p = false ∨ s.keyDown k = true) ∧ keyEvent k p s = s.setKey k p) := by
  unfold keyEvent endWait State.isHalted
  cases hm : s.mode <;> cases p <;> cases hk : s.keyDown k <;> simp [hm]

/-- An induction over runs, once for all: what holds at reset under every sequence of events and is kept by every step
holds of every reachable state. -/
theorem reachable_induction {P : State → Prop} (hreset : ∀ es, P (State.reset.setInputs es))
    (hstep : ∀ s t, P s → step s = .next t → P t) {s : State} (h : Reachable s) : P s := by
  induction h with
  | reset es => exact hreset es
  | step _ h ih => exact hstep _ _ ih h

/-- A run of `n + 1` steps whose first step answers `t` is a run of `n` steps from `t`. -/
theorem run_succ_of_step (M : Host.Core) {s t : M.State} (h : M.step s = .next t) (n : Nat) :
    M.run (n + 1) s = M.run n t := by rw [Host.Core.run, h]

theorem run_succ {s t : State} (h : step s = .next t) (n : Nat) : core.run (n + 1) s = core.run n t :=
  run_succ_of_step core h n

end Sys2Proof.Machine
end

