-- ==== Sys2Proof/Tests/Slice0.lean ====
section
/-! SUPPORT. The model's own tests. The expected results are those of spec/95_test_vectors.md ("2.3 #11" is vector 11 of
its section 2.3, "P6" its program P6) or are worked out by hand from the rule named; no one is the model's own answer.
Then the witnesses: for every statement with hypotheses, concrete states and operands that meet all of them. -/

namespace Sys2Proof.Tests

open Sys2Proof Sys2Proof.Machine Sys2Proof.Claims

/-- What a test looks at in the next state, if there is one. -/
def observe {α : Type} (o : Host.Outcome State Fault Refusal) (f : State → α) : Option α :=
  match o with
  | .next t => some (f t)
  | _ => none

/-- The state with registers set. -/
def regs (s : State) (l : List (RegIdx × Byte)) : State := l.foldl (fun s p => s.writeV p.1 p.2) s

/-- The reset state with registers set. -/
abbrev start (l : List (RegIdx × Byte)) : State := regs State.reset l

/-- One step that runs a word, as the first instruction. -/
def runs {α : Type} (s : State) (w : Nat) (f : State → α) : Option α := observe (step (s.withFetchWord 16 w)) f

/-- The framebuffer with the given cells lit, as (column, row), the way 95_test_vectors writes them. -/
def lit (l : List (Nat × Nat)) : Framebuffer :=
  l.foldl (fun f c => f.toggle (Fin.ofNat 32 c.2) (Fin.ofNat 64 c.1)) Framebuffer.blank

/-- The state with the given quirk settings. -/
abbrev quirky (s : State) (q : Quirks) : State := { s with quirks := q }

/-- Whether an outcome is a next state. -/
def isNext (o : Host.Outcome State Fault Refusal) : Bool := (observe o fun _ => ()).isSome

theorem exists_of_isNext {o : Host.Outcome State Fault Refusal} (h : isNext o = true) : ∃ t, o = .next t := by
  cases o with
  | next t => exact ⟨t, rfl⟩
  | fault r => simp [isNext, observe] at h
  | refused r => simp [isNext, observe] at h

/-! ### Decoding: a word of every constructor, its hexadecimal digits written out from the row of 30_encoding R95 -/

theorem test_decode_families_0_to_7 :
    decode 0x00E0#16 = .ok .cls ∧ decode 0x00EE#16 = .ok .ret ∧ decode 0x1ABC#16 = .ok (.jp 0xABC#12) ∧
    decode 0x220A#16 = .ok (.call 0x20A#12) ∧ decode 0x332A#16 = .ok (.seImm 3 0x2A#8) ∧
    decode 0x432A#16 = .ok (.sneImm 3 0x2A#8) ∧ decode 0x5120#16 = .ok (.seReg 1 2) ∧
    decode 0x6A05#16 = .ok (.ldImm 10 0x05#8) ∧ decode 0x7002#16 = .ok (.addImm 0 0x02#8) := by decide

theorem test_decode_family_8 :
    decode 0x8120#16 = .ok (.ldReg 1 2) ∧ decode 0x8121#16 = .ok (.orReg 1 2) ∧ decode 0x8122#16 = .ok (.andReg 1 2) ∧
    decode 0x8123#16 = .ok (.xorReg 1 2) ∧ decode 0x8AB4#16 = .ok (.addReg 10 11) ∧
    decode 0x8125#16 = .ok (.subReg 1 2) ∧ decode 0x8126#16 = .ok (.shr 1 2) ∧ decode 0x8127#16 = .ok (.subnReg 1 2) ∧
    decode 0x812E#16 = .ok (.shl 1 2) := by decide

theorem test_decode_families_9_to_E :
    decode 0x9120#16 = .ok (.sneReg 1 2) ∧ decode 0xA2F0#16 = .ok (.ldI 0x2F0#12) ∧
    decode 0xBFFF#16 = .ok (.jpV0 0xFFF#12) ∧ decode 0xC30F#16 = .ok (.rnd 3 0x0F#8) ∧
    decode 0xD125#16 = .ok (.drw 1 2 5#4) ∧ decode 0xE19E#16 = .ok (.skp 1) ∧ decode 0xE9A1#16 = .ok (.sknp 9) := by
  decide

theorem test_decode_family_F :
    decode 0xF207#16 = .ok (.ldVxDt 2) ∧ decode 0xF10A#16 = .ok (.ldVxK 1) ∧ decode 0xF115#16 = .ok (.ldDtVx 1) ∧
    decode 0xF118#16 = .ok (.ldStVx 1) ∧ decode 0xF11E#16 = .ok (.addIVx 1) ∧ decode 0xF229#16 = .ok (.ldFVx 2) ∧
    decode 0xF033#16 = .ok (.ldBVx 0) ∧ decode 0xF155#16 = .ok (.stRegs 1) ∧ decode 0xFF65#16 = .ok (.ldRegs 15) := by
  decide

/-- The six fields of 0xD125 (2.1). -/
theorem test_fields :
    opcodeField 0xD125#16 = 0xD#4 ∧ xField 0xD125#16 = 1 ∧ yField 0xD125#16 = 2 ∧ nField 0xD125#16 = 5#4 ∧
    kkField 0xD125#16 = 0x25#8 ∧ nnnField 0xD125#16 = 0x125#12 := by decide

/-! ### WellFormed: an ill-formed word of every family that has one, and an overlong ROM, are refused (2.1, 2.7 #8) -/

theorem test_illegal_words_refused :
    legalWord 0x0000#16 = false ∧ legalWord 0x01E0#16 = false ∧ legalWord 0x00EF#16 = false ∧
    legalWord 0x5121#16 = false ∧ legalWord 0x8128#16 = false ∧ legalWord 0x812F#16 = false ∧
    legalWord 0x9121#16 = false ∧ legalWord 0xE19F#16 = false ∧ legalWord 0xE1A0#16 = false ∧
    legalWord 0xF156#16 = false ∧ legalWord 0xFFFF#16 = false := by decide

theorem test_legal_neighbours_accepted :
    legalWord 0x5120#16 = true ∧ legalWord 0x9120#16 = true ∧ legalWord 0x8126#16 = true ∧
    legalWord 0x812E#16 = true ∧ legalWord 0xE19E#16 = true ∧ legalWord 0xE1A1#16 = true ∧
    legalWord 0xF155#16 = true ∧ legalWord 0xD120#16 = true ∧ legalWord 0x1000#16 = true := by decide

theorem test_illegal_words_named :
    decode 0x01E0#16 = .error .illegal0 ∧ decode 0x5121#16 = .error .illegal5 ∧ decode 0x812D#16 = .error .illegal8 ∧
    decode 0x9121#16 = .error .illegal9 ∧ decode 0xE09D#16 = .error .illegalE ∧ decode 0xF130#16 = .error .illegalF ∧
    decodeBytes [0x12#8] = .error .truncated := by decide

theorem test_rom_size : romFits (List.replicate 3584 0#8) = true ∧ romFits (List.replicate 3585 0#8) = false := by
  simp only [romFits, List.length_replicate]; decide

/-! ### Control flow (2.2) -/

/-- 2.2 #8 and #6. -/
theorem test_ret :
    runs { State.reset with SP := 16, stack := State.reset.stack.set 15 0x0300#16 } 0x00EE (fun t => (t.SP, t.PC)) =
      some (15, 0x0300#16) ∧
    runs { State.reset with SP := 1, stack := State.reset.stack.set 0 0x0ABC#16 } 0x00EE (fun t => (t.SP, t.PC)) =
      some (0, 0x0ABC#16) := by decide

/-- 2.2 #7. -/
theorem test_ret_underflow :
    runs State.reset 0x00EE (fun t => (t.mode, t.fault, t.PC)) =
      some (.halted .stackUnderflow, some ⟨.stackUnderflow, 0x0200#16, 0x00EE#16⟩, 0x0200#16) := by decide

/-- 2.2 #1 and #3. -/
theorem test_jp : runs State.reset 0x1ABC State.PC = some 0x0ABC#16 ∧ runs State.reset 0x1001 State.PC = some 0x0001#16 := by
  decide

/-- 2.2 #4. -/
theorem test_call :
    runs State.reset 0x220A (fun t => (t.stack.toList.head?, t.SP, t.PC)) = some (some 0x0202#16, 1, 0x020A#16) := by
  decide

/-- 2.2 #5. -/
theorem test_call_overflow :
    runs { State.reset with SP := 16 } 0x220A (fun t => (t.mode, t.fault, t.PC, t.SP)) =
      some (.halted .stackOverflow, some ⟨.stackOverflow, 0x0200#16, 0x220A#16⟩, 0x0200#16, 16) := by decide

/-- 2.2 #9 and #10. -/
theorem test_se_imm :
    runs (start [(3, 0x2A#8)]) 0x332A State.PC = some 0x0204#16 ∧
    runs (start [(3, 0x2A#8)]) 0x332B State.PC = some 0x0202#16 := by decide

/-- 2.2 #11 and #12. -/
theorem test_sne_imm :
    runs (start [(3, 0x2A#8)]) 0x432A State.PC = some 0x0202#16 ∧
    runs (start [(3, 0x2A#8)]) 0x432B State.PC = some 0x0204#16 := by decide

/-- 2.2 #13 and #14. -/
theorem test_se_reg :
    runs (start [(1, 7#8), (2, 7#8)]) 0x5120 State.PC = some 0x0204#16 ∧
    runs (start [(1, 7#8), (2, 8#8)]) 0x5120 State.PC = some 0x0202#16 := by decide

/-- 2.2 #16 and #17. -/
theorem test_sne_reg :
    runs (start [(1, 7#8), (2, 8#8)]) 0x9120 State.PC = some 0x0204#16 ∧
    runs (start [(1, 7#8), (2, 7#8)]) 0x9120 State.PC = some 0x0202#16 := by decide

/-- 2.2 #19 and #20. -/
theorem test_jp_v0 :
    runs (start [(0, 0xFF#8)]) 0xBFFF State.PC = some 0x10FE#16 ∧
    runs (start [(0, 0x01#8), (2, 0x55#8)]) 0xB200 State.PC = some 0x0201#16 := by decide

/-! ### Load, arithmetic, logic, shift, random (2.3); the pairs are (`Vx`, `VF`) -/

/-- 2.3 #1 and #2. -/
theorem test_ld_imm :
    runs State.reset 0x6A05 (fun t => (t.readV 10, t.PC)) = some (0x05#8, 0x0202#16) ∧
    runs State.reset 0x6FFF (fun t => t.readV 15) = some 0xFF#8 := by decide

/-- 2.3 #3 and #5. -/
theorem test_add_imm :
    runs (start [(0, 0xFF#8)]) 0x7002 (fun t => (t.readV 0, t.readV 15)) = some (0x01#8, 0#8) ∧
    runs (start [(15, 0xFF#8)]) 0x7F01 (fun t => t.readV 15) = some 0x00#8 := by decide

/-- 2.3 #6. -/
theorem test_ld_reg : runs (start [(1, 0x11#8), (2, 0x22#8)]) 0x8120 (fun t => (t.readV 1, t.readV 2)) = some (0x22#8, 0x22#8) := by
  decide

/-- 2.3 #7. -/
theorem test_or : runs (start [(1, 0x0F#8), (2, 0xF0#8), (15, 7#8)]) 0x8121 (fun t => (t.readV 1, t.readV 15)) =
    some (0xFF#8, 7#8) := by decide

/-- 2.3 #8. -/
theorem test_and : runs (start [(1, 0x3C#8), (2, 0x0F#8), (15, 7#8)]) 0x8122 (fun t => (t.readV 1, t.readV 15)) =
    some (0x0C#8, 7#8) := by decide

/-- 2.3 #9 and #10. -/
theorem test_xor :
    runs (start [(1, 0xFF#8), (2, 0x0F#8), (15, 7#8)]) 0x8123 (fun t => (t.readV 1, t.readV 15)) = some (0xF0#8, 7#8) ∧
    runs (start [(1, 0x5A#8)]) 0x8113 (fun t => t.readV 1) = some 0x00#8 := by decide

/-- 2.3 #11 and #12. -/
theorem test_add :
    runs (start [(1, 0xC8#8), (2, 0x64#8)]) 0x8124 (fun t => (t.readV 1, t.readV 15)) = some (0x2C#8, 1#8) ∧
    runs (start [(1, 0xFF#8), (15, 1#8)]) 0x8124 (fun t => (t.readV 1, t.readV 15)) = some (0xFF#8, 0#8) := by decide

/-- 2.3 #14 and #15: `VF` as a destination and as a source. -/
theorem test_add_vf :
    runs (start [(15, 0xC8#8), (1, 0x64#8)]) 0x8F14 (fun t => t.readV 15) = some 1#8 ∧
    runs (start [(1, 0xFF#8), (15, 1#8)]) 0x81F4 (fun t => (t.readV 1, t.readV 15)) = some (0x00#8, 1#8) := by decide

/-- 2.3 #16 and #17. -/
theorem test_sub :
    runs (start [(1, 0x05#8), (2, 0x07#8)]) 0x8125 (fun t => (t.readV 1, t.readV 15)) = some (0xFE#8, 0#8) ∧
    runs (start [(1, 0x07#8), (2, 0x05#8)]) 0x8125 (fun t => (t.readV 1, t.readV 15)) = some (0x02#8, 1#8) := by decide

/-- 2.3 #18 and #19: equal operands, and `VF` as both. -/
theorem test_sub_equal :
    runs (start [(1, 0x33#8)]) 0x8115 (fun t => (t.readV 1, t.readV 15)) = some (0x00#8, 1#8) ∧
    runs (start [(15, 0x05#8)]) 0x8FF5 (fun t => t.readV 15) = some 1#8 := by decide

/-- 2.3 #20 and #23. -/
theorem test_shr :
    runs (start [(1, 0x05#8)]) 0x8126 (fun t => (t.readV 1, t.readV 15)) = some (0x02#8, 1#8) ∧
    runs (start [(15, 0x81#8)]) 0x8F06 (fun t => t.readV 15) = some 1#8 := by decide

/-- 2.3 #22. -/
theorem test_shr_vy :
    runs (quirky (start [(1, 0x05#8), (2, 0x08#8)]) ⟨.vy, false, false⟩) 0x8126
      (fun t => (t.readV 1, t.readV 15, t.readV 2)) = some (0x04#8, 0#8, 0x08#8) := by decide

/-- 2.3 #24 and #25. -/
theorem test_subn :
    runs (start [(1, 0x05#8), (2, 0x07#8)]) 0x8127 (fun t => (t.readV 1, t.readV 15)) = some (0x02#8, 1#8) ∧
    runs (start [(1, 0x07#8), (2, 0x05#8)]) 0x8127 (fun t => (t.readV 1, t.readV 15)) = some (0xFE#8, 0#8) := by decide

/-- 2.3 #26 and #29. -/
theorem test_shl :
    runs (start [(1, 0x81#8)]) 0x812E (fun t => (t.readV 1, t.readV 15)) = some (0x02#8, 1#8) ∧
    runs (start [(15, 0x81#8)]) 0x8F0E (fun t => t.readV 15) = some 1#8 := by decide

/-- 2.3 #28. -/
theorem test_shl_vy :
    runs (quirky (start [(1, 0x01#8), (2, 0xC0#8)]) ⟨.vy, false, false⟩) 0x812E (fun t => (t.readV 1, t.readV 15)) =
      some (0x80#8, 1#8) := by decide

/-- R171, 2.3 #32: with mask 0xFF the register receives the draw itself; the draw is a free value, so the test names no
number. -/
theorem test_rnd : runs State.reset 0xC3FF (fun t => t.readV 3) = some (Config.rnd 0 &&& 0xFF#8) := rfl

/-- 2.3 #31: with mask 0x00 the register is 0, whatever the draw. -/
theorem test_rnd_masked : runs (start [(3, 0x55#8)]) 0xC300 (fun t => t.readV 3) = some 0x00#8 := by
  show some (Config.rnd 0 &&& 0#8) = some 0#8
  simp

/-! ### Address register and memory (2.4) -/

/-- 2.4 #1 and #2. -/
theorem test_ld_i : runs State.reset 0xA2F0 State.I = some 0x02F0#16 ∧ runs State.reset 0xAFFF State.I = some 0x0FFF#16 := by
  decide

/-- 2.4 #4 and #5. -/
theorem test_add_i :
    runs { start [(1, 0x05#8), (15, 9#8)] with I := 0x0FFE#16 } 0xF11E (fun t => (t.I, t.readV 15)) =
      some (0x0003#16, 9#8) ∧
    runs (quirky { start [(1, 0x05#8), (15, 9#8)] with I := 0x0FFE#16 } ⟨.vx, true, false⟩) 0xF11E
      (fun t => (t.I, t.readV 15)) = some (0x0003#16, 1#8) := by decide

/-- 2.4 #6 and #7. -/
theorem test_add_i_flag :
    runs (quirky { start [(1, 0x10#8), (15, 9#8)] with I := 0x0300#16 } ⟨.vx, true, false⟩) 0xF11E
      (fun t => (t.I, t.readV 15)) = some (0x0310#16, 0#8) ∧
    runs (quirky { start [(15, 3#8)] with I := 0x0FFE#16 } ⟨.vx, true, false⟩) 0xFF1E (fun t => (t.I, t.readV 15)) =
      some (0x0001#16, 1#8) := by decide

/-- 2.4 #9 and #13. -/
theorem test_ld_f :
    runs (start [(2, 0x0A#8)]) 0xF229 State.I = some 0x0082#16 ∧ runs (start [(2, 0xFF#8)]) 0xF229 State.I = some 0x054B#16 := by
  decide

/-- 2.4 #16 and #15. -/
theorem test_ld_b :
    runs { start [(0, 0xFF#8)] with I := 0x0FFE#16 } 0xF033
      (fun t => (t.memRead 0xFFE, t.memRead 0xFFF, t.memRead 0x000)) = some (2#8, 5#8, 5#8) ∧
    runs { State.reset with I := 0x0300#16, mem := [(0x300, 0xFF#8), (0x301, 0xFF#8), (0x302, 0xFF#8)] } 0xF033
      (fun t => (t.memRead 0x300, t.memRead 0x301, t.memRead 0x302)) = some (0#8, 0#8, 0#8) := by decide

/-- 2.4 #18. -/
theorem test_st_regs :
    runs { start [(0, 0x00#8), (1, 0xE0#8)] with I := 0x0FFE#16, mem := [(0xFFE, 0x55#8)] } 0xF155
      (fun t => (t.memRead 0xFFE, t.memRead 0xFFF, t.I)) = some (0x00#8, 0xE0#8, 0x0FFE#16) := by decide

/-- 2.4 #19, its bytes at both ends of the wrap. -/
theorem test_st_regs_wraps :
    runs { State.reset with I := 0x0FF8#16, V := Vector.ofFn fun i => BitVec.ofNat 8 (0x10 + i.val) } 0xFF55
      (fun t => (t.memRead 0xFF8, t.memRead 0xFFF, t.memRead 0x000, t.memRead 0x007, t.memRead 0x008)) =
      some (0x10#8, 0x17#8, 0x18#8, 0x1F#8, 0x00#8) := by decide

/-- 2.4 #22: the font's first bytes (R62). -/
theorem test_ld_regs_all :
    runs { State.reset with I := 0x0050#16 } 0xFF65 (fun t => t.V.toList) =
      some [0xF0, 0x90, 0x90, 0x90, 0xF0, 0x20, 0x60, 0x20, 0x20, 0x70, 0xF0, 0x10, 0xF0, 0x80, 0xF0, 0xF0] := by decide

/-- 2.4 #21. -/
theorem test_ld_regs_some :
    runs { start [(3, 0x99#8)] with I := 0x0300#16, mem := [(0x300, 2#8), (0x301, 4#8), (0x302, 6#8)] } 0xF265
      (fun t => (t.V.toList.take 4, t.I)) = some ([2#8, 4#8, 6#8, 0x99#8], 0x0300#16) := by decide

/-! ### Display (2.5) -/

/-- 2.5 #1. -/
theorem test_cls :
    runs { start [(15, 5#8)] with fb := Vector.replicate 32 0xFFFFFFFFFFFFFFFF#64 } 0x00E0 (fun t => (t.fb, t.readV 15)) =
      some (lit [], 5#8) := by decide

/-- The cells of 2.5 #4. -/
def clippedGlyph : List (Nat × Nat) := [(62, 30), (63, 30), (0, 30), (1, 30), (62, 31), (1, 31)]

/-- 2.5 #4 (clip) and #5 (wrap). -/
theorem test_drw_edges :
    runs { start [(1, 62#8), (2, 30#8)] with I := 0x050#16 } 0xD125 (fun t => (t.fb, t.readV 15)) =
      some (lit clippedGlyph, 0#8) ∧
    runs (quirky { start [(1, 62#8), (2, 30#8)] with I := 0x050#16 } ⟨.vx, false, true⟩) 0xD125
      (fun t => (t.fb, t.readV 15)) =
      some (lit (clippedGlyph ++ [(62, 0), (1, 0), (62, 1), (1, 1), (62, 2), (63, 2), (0, 2), (1, 2)]), 0#8) := by decide

/-- 2.5 #10 (a collision) and #11 (a sprite bit that is 0 over a lit cell, column 1 of row 0). -/
theorem test_drw_collision :
    runs { State.reset with fb := lit [(0, 0)], I := 0x300#16, mem := [(0x300, 0x80#8)] } 0xD121
      (fun t => (t.fb, t.readV 15)) = some (lit [], 1#8) ∧
    runs { State.reset with fb := lit [(1, 0)], I := 0x300#16, mem := [(0x300, 0x80#8)] } 0xD121
      (fun t => (t.fb, t.readV 15)) = some (lit [(0, 0), (1, 0)], 0#8) := by decide

/-! ### Keys and timers (2.6) -/

/-- 2.6 #3 and #2. -/
theorem test_skp :
    runs ((start [(1, 0x17#8)]).setKey 7 true) 0xE19E State.PC = some 0x0204#16 ∧
    runs (start [(1, 0x07#8)]) 0xE19E State.PC = some 0x0202#16 := by decide

/-- 2.6 #4 and #5. -/
theorem test_sknp :
    runs (start [(1, 0x07#8)]) 0xE1A1 State.PC = some 0x0204#16 ∧
    runs ((start [(1, 0x07#8)]).setKey 7 true) 0xE1A1 State.PC = some 0x0202#16 := by decide

/-- 2.6 #6. -/
theorem test_ld_vx_k : runs State.reset 0xF10A (fun t => (t.mode, t.PC)) = some (.awaitingKey 1, 0x0202#16) := by decide

/-- 2.6 #7 and #8. -/
theorem test_key_event :
    observe (step { State.reset with mode := .awaitingKey 1, inputs := [.key 7 true] })
      (fun t => (t.keyDown 7, t.readV 1, t.mode)) = some (true, 7#8, .running) ∧
    observe (step { State.reset.setKey 7 true with mode := .awaitingKey 1, inputs := [.key 7 true] })
      (fun t => (t.keyDown 7, t.readV 1, t.mode)) = some (true, 0#8, .awaitingKey 1) := by decide

/-- 2.6 #15. -/
theorem test_ld_vx_dt : runs { State.reset with DT := 6#8 } 0xF207 (fun t => (t.readV 2, t.DT)) = some (6#8, 6#8) := by
  decide

/-- 2.6 #16. -/
theorem test_ld_dt_vx : runs (start [(1, 7#8)]) 0xF115 (fun t => (t.DT, t.ST)) = some (7#8, 0#8) := by decide

/-- 2.6 #17. -/
theorem test_ld_st_vx : runs (start [(1, 2#8)]) 0xF118 (fun t => (t.ST, t.DT, t.audioActive)) = some (2#8, 0#8, true) := by
  decide

/-- 2.6 #12 and #19. -/
theorem test_tick :
    observe (step { State.reset with mode := .awaitingKey 1, DT := 2#8, ST := 1#8, inputs := [.tick] })
      (fun t => (t.DT, t.ST, t.mode)) = some (1#8, 0#8, .awaitingKey 1) ∧
    observe (step { State.reset with DT := 255#8, ST := 1#8, inputs := [.tick] })
      (fun t => (t.DT, t.ST, t.audioActive)) = some (254#8, 0#8, false) := by decide

/-- 2.6 #22 and #20. -/
theorem test_quit :
    observe (step { State.reset with mode := .awaitingKey 1, inputs := [.quit] }) (fun t => (t.mode, t.fault, t.statusCode)) =
      some (.halted .quit, none, 5) ∧
    observe (step { State.reset with mode := .halted .decodeFault, inputs := [.quit] }) State.mode =
      some (.halted .decodeFault) := by decide

/-! ### Fetch, end of memory, reset (2.7) -/

/-- 2.7 #1. -/
theorem test_end_of_memory :
    observe (step { State.reset with PC := 0x1000#16 }) (fun t => (t.mode, t.fault, t.PC)) =
      some (.halted .endOfMemory, none, 0x1000#16) := by decide

/-- 2.7 #2 and #4: a fetch across the end of memory, and from an odd address. -/
theorem test_fetch :
    observe (step { State.reset with PC := 0x0FFF#16, mem := [(0x000, 0x34#8), (0xFFF, 0x12#8)] }) State.PC =
      some 0x0234#16 ∧
    observe (step { State.reset with PC := 0x0201#16, mem := [(0x201, 0x6A#8), (0x202, 0x05#8)] })
      (fun t => (t.readV 10, t.PC)) = some (5#8, 0x0203#16) := by decide

/-- 2.7 #6: `RESET` with an empty ROM, then `CYCLE`. -/
theorem test_first_step_after_reset :
    observe (step State.reset) (fun t => (t.mode, t.fault)) =
      some (.halted .decodeFault, some ⟨.decodeFault, 0x0200#16, 0x0000#16⟩) := by decide

/-- 2.7 #5. -/
theorem test_reset_event :
    observe (step { start [(1, 9#8)] with
        mode := .halted .quit, PC := 0x0ABC#16, mem := [(0x050, 0#8)], inputs := [.reset [0x6A, 0x05, 0x60, 0x00] .default defaultFont] })
      (fun t => ([t.memRead 0x200, t.memRead 0x201, t.memRead 0x202, t.memRead 0x050, t.readV 1], t.PC, t.mode)) =
      some ([0x6A#8, 0x05#8, 0x60#8, 0xF0#8, 0#8], 0x0200#16, .running) := by decide +kernel

/-- A font that is not the default: every byte 0xAA but the last, which is the default's 0x80. -/
def otherFont : Font := (Vector.replicate 80 0xAA#8).set 79 0x80#8

/-- R293: another font takes the font region and nothing beside it. -/
theorem test_reset_other_font :
    observe (step { State.reset with inputs := [.reset [] .default otherFont] })
      (fun t => [t.memRead 0x04F, t.memRead 0x050, t.memRead 0x09E, t.memRead 0x09F, t.memRead 0x0A0]) =
      some [0x00#8, 0xAA#8, 0xAA#8, 0x80#8, 0x00#8] := by decide +kernel

/-- 2.7 #8: the loader's fault. -/
theorem test_overlong_rom :
    step { State.reset with inputs := [.reset (List.replicate 3585 0#8) .default defaultFont] } = .fault .loadFault := by
  simp only [step, nextEvent, handleEvent, romFits, List.length_replicate]; rfl

/-! ### Witnesses: hypotheses of the statements, met together, at the boundary values of each clause -/

/-- A jump whose two bytes stand at 0xFFF and 0x000, and a `CYCLE` that is next. -/
def wrapFetch : State :=
  { State.reset with PC := 0x0FFF#16, mem := [(0x000, 0x34#8), (0xFFF, 0x12#8)], inputs := [.cycle, .tick] }

theorem witness_StepRunsTheFetchedInstruction :
    (CycleIsNext wrapFetch [.tick] ∧ wrapFetch.mode = .running ∧ wrapFetch.PC.toNat < 4096 ∧
      decode (wordOfBytes (wrapFetch.memRead wrapFetch.PC.toNat) (wrapFetch.memRead ((wrapFetch.PC.toNat + 1) % 4096))) =
        .ok (.jp 0x234#12)) ∧
    CycleIsNext (wrapFetch.setInputs []) [] := ⟨⟨.inl rfl, by decide⟩, .inr ⟨rfl, rfl⟩⟩

theorem witness_IllegalWordTakesDecodeFault :
    CycleIsNext State.reset [] ∧ State.reset.mode = .running ∧ State.reset.PC.toNat < 4096 ∧
      legalWord (State.reset.memReadWord State.reset.PC.toNat) = false := ⟨.inr ⟨rfl, rfl⟩, by decide⟩

/-- Running, with `PC` just past memory and a `CYCLE` next. -/
def atEnd : State := { State.reset with PC := 0x1000#16, inputs := [.cycle, .tick] }

theorem witness_EndOfMemoryHaltsWithoutFetching :
    CycleIsNext atEnd [.tick] ∧ atEnd.mode = .running ∧ 4096 ≤ atEnd.PC.toNat := ⟨.inl rfl, by decide⟩

theorem witness_CycleWhileAwaitingKeyChangesNothing :
    CycleIsNext (State.reset.setMode (.awaitingKey 15)) [] ∧
      (State.reset.setMode (.awaitingKey 15)).mode = .awaitingKey 15 := ⟨.inr ⟨rfl, rfl⟩, rfl⟩

/-- Halted, with a press to come. -/
def haltedWithKey : State := { State.reset with mode := .halted .decodeFault, inputs := [.key 1 true, .tick] }

theorem witness_HaltedAbsorbsEveryEventButReset :
    haltedWithKey.mode = .halted .decodeFault ∧ (∀ rom q f, haltedWithKey.inputs.head? ≠ some (.reset rom q f)) :=
  ⟨rfl, by intro rom q f; simp [haltedWithKey]⟩

/-- A `RESET` with the shortest ROM that is too long, and with the longest that fits; with no event none is too long. -/
theorem witness_StepAnswersUnlessTheRomIsTooLong :
    (({ State.reset with inputs := [.reset (List.replicate 3585 0#8) .default defaultFont] } : State).inputs.head? =
      some (.reset (List.replicate 3585 0#8) .default defaultFont) ∧ 3584 < (List.replicate 3585 0#8).length) ∧
    (∀ rom q f, ({ State.reset with inputs := [.reset (List.replicate 3584 0#8) .default defaultFont] } :
      State).inputs.head? = some (.reset rom q f) → rom.length ≤ 3584) ∧
    (∀ rom q f, State.reset.inputs.head? = some (.reset rom q f) → rom.length ≤ 3584) := by
  refine ⟨⟨rfl, by rw [List.length_replicate]; decide⟩, fun rom q f h => ?_, nofun⟩
  obtain ⟨rfl, -, -⟩ : List.replicate 3584 0#8 = rom ∧ _ ∧ _ := by
    simpa only [List.head?_cons, Option.some.injEq, Event.reset.injEq] using h
  rw [List.length_replicate]

/-- A state at the bounds of the invariant: `I` = 0xFFF, `PC` = 0x10FE, a full stack of the largest return address. -/
def atBounds : State :=
  { State.reset with I := 0x0FFF#16, PC := 0x10FE#16, SP := 16, stack := Vector.replicate 16 0x1001#16,
                     mem := [(0x000, 1#8), (0xFFF, 0xFF#8)] }

theorem witness_StepKeepsTheInvariant : Inv atBounds ∧ ∃ t, step atBounds = .next t :=
  ⟨by decide, exists_of_isNext (by decide)⟩

/-- A call at depth 16, halted by its overflow (P6, after cycle 17). -/
def overflowed : State :=
  { State.reset with
    SP := 16, mem := [(0x200, 0x22#8)], mode := .halted .stackOverflow,
    fault := some ⟨.stackOverflow, 0x0200#16, 0x2200#16⟩ }

theorem witness_StepKeepsThePreciseHalt :
    (PreciseHalt State.reset ∧ ∃ t, step State.reset = .next t) ∧
    (PreciseHalt overflowed ∧ ∃ t, step overflowed = .next t) :=
  ⟨⟨rfl, exists_of_isNext (by decide)⟩,
    ⟨by decide, by decide, by decide, 0x200#12, by decide⟩, exists_of_isNext (by decide)⟩

theorem witness_AccessMatrixBoundsEveryInstruction : ∃ t, exec (.drw 1 2 5#4) State.reset = .next t := ⟨_, rfl⟩

theorem witness_OnlySkipsAndTransfersLeaveTheSequence :
    ((∃ t, exec (.seImm 0 0#8) State.reset = .next t) ∧ isTransfer (.seImm 0 0#8) = false) ∧
    ((∃ t, exec .cls State.reset = .next t) ∧ isTransfer .cls = false) := ⟨⟨⟨_, rfl⟩, rfl⟩, ⟨_, rfl⟩, rfl⟩

/-- A state that answers its next step with another mode. -/
def changesMode (s : State) : Bool := observe (step s) (fun t => t.mode != s.mode) == some true

/-- One state for each way the mode may change: a key wait, a fault, the end of memory, a press, `QUIT`, `RESET`. -/
theorem witness_ModeChangesOnlyAsListed :
    changesMode (State.reset.withFetchWord 16 0xF10A) = true ∧ changesMode State.reset = true ∧
    changesMode atEnd = true ∧
    changesMode { State.reset with mode := .awaitingKey 15, inputs := [.key 0 true] } = true ∧
    changesMode { State.reset with inputs := [.quit] } = true ∧
    changesMode { haltedWithKey with inputs := [.reset [] .default defaultFont] } = true := by decide

/-- A state that answers its next step with another `PC`. -/
def movesPC (s : State) : Bool := observe (step s) (fun t => t.PC != s.PC) == some true

theorem witness_OnlyInstructionsAndResetMovePC :
    movesPC wrapFetch = true ∧ movesPC { atEnd with inputs := [.reset [] .default defaultFont] } = true := by decide

theorem witness_QuirksChangeOnlyAtReset :
    (∃ t, step wrapFetch = .next t) ∧ (∀ rom q f, wrapFetch.inputs.head? ≠ some (.reset rom q f)) :=
  ⟨exists_of_isNext (by decide), by intro rom q f; simp [wrapFetch]⟩

theorem witness_NoInstructionReadsTheSoundTimer : ∃ t, exec (.ldVxDt 1) State.reset = .next t := ⟨_, rfl⟩

theorem witness_OnlyDrawObservesTheFramebuffer :
    (∃ t, exec .cls State.reset = .next t) ∧ (∀ x y n, Instr.cls ≠ .drw x y n) := ⟨⟨_, rfl⟩, nofun⟩

/-- `P6` after one call, and the same with another dead entry. -/
def oneCall (dead : Word) : State :=
  { State.reset with SP := 1, stack := (State.reset.stack.set 0 0x0202#16).set 1 dead, mem := [(0x200, 0x22#8)] }

theorem witness_DeadStackEntriesAreUnobservable :
    AgreeButDeadStack (oneCall 0#16) (oneCall 0x0ABC#16) ∧ oneCall 0#16 ≠ oneCall 0x0ABC#16 ∧
      ∃ t, step (oneCall 0#16) = .next t :=
  ⟨⟨rfl, by decide⟩, by decide, exists_of_isNext (by decide)⟩

/-- The empty and the nearly full stack leave room; the full one and the one with one entry can be popped. -/
theorem witness_stack_bounds :
    ({ State.reset with SP := 0 } : State).SP.val < 16 ∧ ({ State.reset with SP := 15 } : State).SP.val < 16 ∧
    0 < ({ State.reset with SP := 16 } : State).SP.val ∧ 0 < ({ State.reset with SP := 1 } : State).SP.val := by decide

theorem witness_CallPushesTheReturnAddress : ({ State.reset with SP := 15 } : State).SP.val < 16 := by decide

theorem witness_ReturnPopsIntoPC : 0 < ({ State.reset with SP := 16 } : State).SP.val := by decide

theorem witness_StackFaultsHaltAndWriteNothing :
    ({ State.reset with SP := 16 } : State).SP.val = 16 ∧ State.reset.SP.val = 0 := by decide

theorem witness_CallThenReturnComesBack : ({ State.reset with SP := 15 } : State).SP.val < 16 := by decide

theorem witness_SixteenCallsSucceedAndTheSeventeenthFaults :
    (List.replicate 16 (0x200#12)).length = 16 ∧ State.reset.SP.val = 0 := by decide

theorem witness_ShiftsMoveOneBitIntoVF :
    ((start [(1, 5#8)]).quirks.shiftSrc = .vx ∧ 5#8 = (start [(1, 5#8)]).readV 1) ∧
    ((quirky (start [(2, 8#8)]) ⟨.vy, false, false⟩).quirks.shiftSrc = .vy ∧
      8#8 = (quirky (start [(2, 8#8)]) ⟨.vy, false, false⟩).readV 2) := by decide

theorem witness_AddToIndexIsModulo4096 :
    (quirky State.reset ⟨.vx, true, false⟩).quirks.fx1eVf = true ∧ State.reset.quirks.fx1eVf = false := by decide

/-- Memory in canonical form with bytes at both ends and in the font. -/
def someMemory : Memory := [(0x000, 1#8), (0x050, 0x00#8), (0x300, 0xFF#8), (0xFFF, 0x12#8)]

theorem witness_BcdStoresTheDecimalDigits : someMemory.wf = true := by decide

theorem witness_StoreRegistersWritesExactlyTheirBytes : Memory.wf ([] : Memory) = true ∧ someMemory.wf = true := by decide

/-- Sixteen registers to be stored across the end of memory. -/
def toStore : State :=
  { State.reset with I := 0x0FF8#16, mem := someMemory, V := Vector.ofFn fun i => BitVec.ofNat 8 (0x10 + i.val) }

theorem witness_StoreThenLoadRestoresTheRegisters :
    ∃ t t' u, toStore.mem.wf = true ∧ exec (.stRegs 15) toStore = .next t ∧ t'.I = t.I ∧ t'.mem = t.mem ∧
      exec (.ldRegs 15) t' = .next u ∧ t'.readV 3 ≠ t.readV 3 :=
  ⟨toStore.storeAtI (toStore.regsUpTo 15) |>.advance,
    (toStore.storeAtI (toStore.regsUpTo 15) |>.advance).writeV 3 0xAA#8, _, by decide, rfl, rfl, rfl, rfl, by decide⟩

theorem witness_StoreToTheNextInstructionIsFetched :
    ({ State.reset with I := 0x0202#16 } : State).mem.wf = true ∧ 1 ≤ (1 : RegIdx).val ∧
      ({ State.reset with I := 0x0202#16 } : State).I = ({ State.reset with I := 0x0202#16 } : State).PC + 2#16 := by
  decide

/-- A sprite of one dot over a cell that is on, and over one that is off (2.5 #10 and its inverse). -/
theorem witness_DrawFlagsACollision :
    let s : State := { State.reset with fb := lit [(0, 0)], I := 0x300#16, mem := [(0x300, 0x80#8)] }
    (∃ yy xx, SpriteCovers s 0 0 1 yy xx ∧ s.fb.cell yy xx = true) ∧
    ¬ ∃ yy xx, SpriteCovers s 0 0 0 yy xx ∧ s.fb.cell yy xx = true :=
  ⟨⟨0, 0, ⟨0, 0, by decide⟩, by decide⟩, fun ⟨_, _, ⟨_, _, h, _⟩, _⟩ => absurd h (Nat.not_lt_zero _)⟩

/-- 2.5 #2 and #3. -/
theorem witness_DrawingTwiceRestoresTheFramebuffer :
    ∃ t u, exec (.drw 1 2 5#4) { State.reset with I := 0x050#16 } = .next t ∧ exec (.drw 1 2 5#4) t = .next u ∧
      t.readV 1 = State.reset.readV 1 ∧ t.readV 2 = State.reset.readV 2 := ⟨_, _, rfl, rfl, by decide, by decide⟩

theorem witness_KeySkipsTestTheSelectedLatch :
    (7 : KeyIdx).val = ((start [(1, 0x17#8)]).readV 1).toNat % 16 ∧
    (15 : KeyIdx).val = ((start [(1, 0xFF#8)]).readV 1).toNat % 16 := by decide

/-- Awaiting a key in `VF`, with an event of key 7 to come. -/
def awaiting (pressed : Bool) : State := { State.reset with mode := .awaitingKey 15, inputs := [.key 7 pressed] }

/-- A press of a key that is up, a press of a key that is down, a release, and a press while running. -/
theorem witness_KeyEventsLatchAndCompleteTheWait :
    ((awaiting true).inputs = [.key 7 true] ∧ (awaiting true).isHalted = false ∧
      (awaiting true).mode = .awaitingKey 15 ∧ (awaiting true).keyDown 7 = false) ∧
    (((awaiting true).setKey 7 true).inputs = [.key 7 true] ∧ ((awaiting true).setKey 7 true).isHalted = false ∧
      ((awaiting true).setKey 7 true).keyDown 7 = true) ∧
    ((awaiting false).inputs = [.key 7 false] ∧ (awaiting false).isHalted = false) ∧
    (((awaiting true).setMode .running).inputs = [.key 7 true] ∧ ((awaiting true).setMode .running).isHalted = false ∧
      ((awaiting true).setMode .running).mode = .running) := by decide

/-- A tick with one timer at 0 and one at 1, in both modes. -/
theorem witness_TickCountsBothTimersDown :
    let s : State := { State.reset with DT := 1#8, inputs := [.tick] }
    (s.inputs = [.tick] ∧ s.isHalted = false) ∧
    ((s.setMode (.awaitingKey 0)).inputs = [.tick] ∧ (s.setMode (.awaitingKey 0)).isHalted = false) := by decide

/-- More ticks than the timer holds. -/
def ticking : State :=
  { State.reset with mode := .awaitingKey 1, DT := 1#8, ST := 9#8, inputs := [.tick, .cycle, .tick] }

theorem witness_TimersCountDownThroughTheWait :
    ticking.inputs = [.tick, .cycle, .tick] ∧ ticking.mode = .awaitingKey 1 ∧
      ∀ e ∈ [Event.tick, .cycle, .tick], e = .cycle ∨ e = .tick := by decide

/-- Key events polled in one iteration: a press, a release and a press again of key 7, and a press of key 3. -/
def polledKeys : List (KeyIdx × Bool) := [(7, true), (7, false), (3, true), (7, true)]

/-- An instruction at 0x200, in a loop iteration in which those keys are polled and two ticks are due. -/
def looping (hi lo : Byte) : State :=
  { start [(1, 1#8)] with DT := 9#8, mem := [(0x200, hi), (0x201, lo)], inputs := loopIteration polledKeys 2 }

/-- `Fx15`, after which the machine runs on, and `Fx0A`, after which it awaits a key. -/
theorem witness_LoopIterationTicksAfterTheInstruction :
    (∃ t, (looping 0xF1#8 0x15#8).inputs = loopIteration polledKeys 2 ∧ (looping 0xF1#8 0x15#8).mode = .running ∧
      (looping 0xF1#8 0x15#8).PC.toNat < 4096 ∧ decode ((looping 0xF1#8 0x15#8).memReadWord 0x200) = .ok (.ldDtVx 1) ∧
      exec (.ldDtVx 1) (looping 0xF1#8 0x15#8) = .next t ∧ t.isHalted = false ∧ t.mode = .running) ∧
    (∃ t, (looping 0xF2#8 0x0A#8).inputs = loopIteration polledKeys 2 ∧ (looping 0xF2#8 0x0A#8).mode = .running ∧
      (looping 0xF2#8 0x0A#8).PC.toNat < 4096 ∧ decode ((looping 0xF2#8 0x0A#8).memReadWord 0x200) = .ok (.ldVxK 2) ∧
      exec (.ldVxK 2) (looping 0xF2#8 0x0A#8) = .next t ∧ t.isHalted = false ∧ t.mode = .awaitingKey 2) :=
  ⟨⟨_, rfl, rfl, by decide, by decide, rfl, rfl, rfl⟩, ⟨_, rfl, rfl, by decide, by decide, rfl, rfl, rfl⟩⟩

theorem witness_QuitHaltsAndChangesNothingElse :
    ({ State.reset with inputs := [.quit] } : State).inputs = [.quit] ∧
      ({ State.reset with inputs := [.quit] } : State).isHalted = false := by decide

theorem witness_ResetEstablishesTheResetState :
    (({ haltedWithKey with inputs := [.reset [] ⟨.vy, true, true⟩ otherFont] } : State).inputs = [.reset [] ⟨.vy, true, true⟩ otherFont] ∧
      ([] : List Byte).length ≤ 3584) ∧
    (List.replicate 3584 0xFF#8).length ≤ 3584 := ⟨⟨rfl, by decide⟩, by simp only [List.length_replicate]; decide⟩

theorem witness_PlacedWordIsTheNextInstruction :
    wrapFetch.mem.wf = true ∧ decodeTableWord 16 0xF165 = some (.ldRegs 1) := by decide

/-- A word that decodes, a row that accepts it, and a word that is rejected. -/
theorem witness_encoding :
    decode 0xF165#16 = .ok (.ldRegs 1) ∧ (opcodeRows.any fun r => r.accepts 0xF165#16) = true ∧
      decode 0x0000#16 = .error .illegal0 := by decide

end Sys2Proof.Tests
end

/-! Proofs of the statements of 00_scope: the order of events in one iteration of the host loop (R11, R129), the state
after `RESET` (R40, R61), and the random byte (R171). -/

namespace Sys2Proof

open Sys2Proof.Machine Sys2Proof.Claims

/-! ### Runs -/

/-- A run of `m + n` steps goes on from where its first `m` steps end. -/
theorem run_add (M : Host.Core) {s v : M.State} {m : Nat} (h : M.run m s = .next v) (n : Nat) :
    M.run (m + n) s = M.run n v := by
  induction m generalizing s with
  | zero => cases h; rw [Nat.zero_add]
  | succ m ih =>
    rw [Host.Core.run] at h
    cases hs : M.step s with
    | next s' =>
      rw [hs] at h
      rw [Nat.succ_add, run_succ_of_step M hs, ih h]
    | fault r => simp [hs] at h
    | refused r => simp [hs] at h

/-! ### An instruction does not see the events to come (10_state R38) -/

/-- An outcome with a function applied to its next state. -/
def mapNext (f : State → State) : Host.Outcome State Fault Refusal → Host.Outcome State Fault Refusal
  | .next t => .next (f t)
  | .fault r => .fault r
  | .refused r => .refused r

theorem push_setInputs (s : State) (es : List Event) (a : Word) :
    (s.setInputs es).push a = (s.push a).map (·.setInputs es) := by
  by_cases h : s.SP.val < 16
  · rw [State.push_of_room s a h, State.push_of_room (s.setInputs es) a h]
    rfl
  · have hfull : s.SP.val = 16 := by omega
    rw [(State.push_eq_none s a).mpr hfull, (State.push_eq_none (s.setInputs es) a).mpr hfull]
    rfl

theorem pop_setInputs (s : State) (es : List Event) :
    (s.setInputs es).pop = s.pop.map fun p => (p.1, p.2.setInputs es) := by
  by_cases h : 0 < s.SP.val
  · rw [State.pop_of_occupied s h, State.pop_of_occupied (s.setInputs es) h]
    rfl
  · have hempty : s.SP.val = 0 := by omega
    rw [(State.pop_eq_none s).mpr hempty, (State.pop_eq_none (s.setInputs es)).mpr hempty]
    rfl

theorem drawRows_setInputs (s : State) (es : List Event) (vx vy n : Nat) :
    (s.setInputs es).drawRows vx vy n = s.drawRows vx vy n := by
  induction n with
  | zero => rfl
  | succ n ih => simp only [State.drawRows, ih, State.setInputs_quirks, State.readAtI_setInputs]

theorem loadRegsBelow_setInputs (s : State) (es : List Event) (n : Nat) :
    (s.setInputs es).loadRegsBelow n = (s.loadRegsBelow n).setInputs es := by
  induction n with
  | zero => rfl
  | succ n ih =>
    simp only [State.loadRegsBelow, ih, State.readAtI_setInputs]
    split <;> rfl

/-- An instruction does the same whatever events are still to come, and leaves them as they are. -/
theorem exec_setInputs (i : Instr) (s : State) (es : List Event) :
    exec i (s.setInputs es) = mapNext (·.setInputs es) (exec i s) := by
  cases i with
  | ret =>
    simp only [exec, execRet, pop_setInputs]
    cases s.pop <;> rfl
  | call nnn =>
    simp only [exec, execCall, State.pcNext_setInputs, push_setInputs]
    cases s.push s.pcNext <;> rfl
  | drw x y n =>
    simp only [exec, execDrw, State.readV_setInputs, drawRows_setInputs]
    rfl
  | addIVx x =>
    cases h : s.quirks.fx1eVf <;> simp only [exec, execAddIVx, State.setInputs_quirks, h] <;> rfl
  | ldRegs x =>
    simp only [exec, execLdRegs, loadRegsBelow_setInputs]
    rfl
  | _ => rfl

/-- A step that finds a `CYCLE` next and a legal word at `PC` runs its instruction (40_instruction_cycle R120). -/
theorem step_runs_instruction {s t : State} {i : Instr} {rest : List Event} (hin : s.inputs = .cycle :: rest)
    (hmode : s.mode = .running) (hpc : s.PC.toNat < 4096) (hdec : decode (s.memReadWord s.PC.toNat) = .ok i)
    (hexec : exec i s = .next t) : step s = .next (t.setInputs rest) := by
  have hcycle : cycle (s.setInputs rest) = exec i (s.setInputs rest) := by
    have hdec' : decode ((s.setInputs rest).memReadWord s.PC.toNat) = .ok i := hdec
    simp [cycle, hmode, Nat.not_le.mpr hpc, hdec']
  rw [step_cons hin, handleEvent, hcycle, exec_setInputs, hexec, mapNext]

/-! ### Key events (60_exceptions R266, R267) -/

theorem mode_of_not_halted {s : State} (h : s.isHalted = false) :
    s.mode = .running ∨ ∃ r, s.mode = .awaitingKey r := by
  unfold State.isHalted at h
  cases hm : s.mode with
  | running => exact .inl rfl
  | awaitingKey r => exact .inr ⟨r, rfl⟩
  | halted r => simp [hm] at h

/-- A key event neither halts the machine nor wakes it from a halt. -/
theorem isHalted_keyEvent (k : KeyIdx) (p : Bool) (s : State) : (keyEvent k p s).isHalted = s.isHalted := by
  obtain ⟨-, he⟩ | ⟨r, hm, -, -, he⟩ | ⟨-, -, he⟩ := keyEvent_cases k p s
  · rw [he]
  · simp [he, State.isHalted, hm]
  · simp [he]

/-- A key event sets the latch of its key and no other. -/
theorem keyDown_keyEvent {s : State} (h : s.isHalted = false) (k j : KeyIdx) (p : Bool) :
    (keyEvent k p s).keyDown j = if k = j then p else s.keyDown j := by
  obtain ⟨hh, -⟩ | ⟨r, -, hp, -, he⟩ | ⟨-, -, he⟩ := keyEvent_cases k p s
  · simp [h] at hh
  · rw [he, hp]
    exact State.keyDown_setKey s k j true
  · rw [he, State.keyDown_setKey]

theorem keyEvent_inputs (k : KeyIdx) (p : Bool) (s : State) : (keyEvent k p s).inputs = s.inputs := by
  obtain ⟨-, he⟩ | ⟨r, -, -, -, he⟩ | ⟨-, -, he⟩ := keyEvent_cases k p s <;> simp [he]

/-- What key events may change between two states: in a running machine the latches alone; while a key is awaited also
the awaited register and, at the end of the wait, the mode. -/
structure KeyFrame (s v : State) : Prop where
  ofRunning : s.mode = .running → KeptExcept [.keys, .inputs] s v
  ofAwaiting : ∀ r, s.mode = .awaitingKey r →
    (v.mode = .running ∨ v.mode = .awaitingKey r) ∧ RegsKeptExcept [r] s v ∧ KeptExcept [.keys, .V, .mode, .inputs] s v

theorem keyFrame_of_kept {s v : State} (h : KeptExcept [.keys, .inputs] s v) : KeyFrame s v := by
  have hmode : v.mode = s.mode := h .mode (by decide)
  exact ⟨fun _ => h, fun r hm => ⟨.inr (hmode.trans hm), fun q _ => h .V (by decide) q, h.mono (by decide)⟩⟩

theorem KeyFrame.trans {s t v : State} (h : KeyFrame s t) (h' : KeyFrame t v) : KeyFrame s v := by
  refine ⟨fun hm => ?_, fun r hm => ?_⟩
  · have hst := h.ofRunning hm
    have hmt : t.mode = .running := (hst .mode (by decide)).trans hm
    exact hst.trans (h'.ofRunning hmt)
  · obtain ⟨hmt, hregs, hkept⟩ := h.ofAwaiting r hm
    obtain hmt | hmt := hmt
    · have htv := h'.ofRunning hmt
      have hmv : v.mode = .running := (htv .mode (by decide)).trans hmt
      exact ⟨.inl hmv, fun q hq => (htv .V (by decide) q).trans (hregs q hq), hkept.trans (htv.mono (by decide))⟩
    · obtain ⟨hmv, hregs', hkept'⟩ := h'.ofAwaiting r hmt
      exact ⟨hmv, fun q hq => (hregs' q hq).trans (hregs q hq), hkept.trans hkept'⟩

theorem keyFrame_keyEvent (k : KeyIdx) (p : Bool) (s : State) : KeyFrame s (keyEvent k p s) := by
  obtain ⟨-, he⟩ | ⟨r, hm, -, -, he⟩ | ⟨-, -, he⟩ := keyEvent_cases k p s
  · rw [he]
    exact keyFrame_of_kept (KeptExcept.refl _ s)
  · rw [he]
    refine ⟨fun hm' => by simp [hm] at hm', fun q hq => ?_⟩
    obtain rfl : r = q := by simpa [hm] using hq
    refine ⟨.inl rfl, fun j hj => ?_, ?_⟩
    · exact State.readV_writeV_other (s.setKey k true) _ (by simpa [eq_comm] using hj)
    · exact (((keptExcept_setKey s k true).mono (by decide)).trans
        ((keptExcept_writeV _ r _).mono (by decide))).trans ((keptExcept_setMode _ _).mono (by decide))
  · rw [he]
    exact keyFrame_of_kept ((keptExcept_setKey s k p).mono (by decide))

/-- A part that is neither a latch, a register, the mode nor the stream of events is the same after key events. -/
theorem KeyFrame.same {s v : State} (h : KeyFrame s v) (hh : s.isHalted = false) {p : Part}
    (hp : p ∉ [.keys, .V, .mode, .inputs]) : p.Same s v := by
  obtain hm | ⟨r, hm⟩ := mode_of_not_halted hh
  · exact (h.ofRunning hm).mono (by decide) p hp
  · obtain ⟨-, -, hkept⟩ := h.ofAwaiting r hm
    exact hkept p hp

/-- The polled key events of a loop iteration, handled one after the other (40_instruction_cycle R129). -/
theorem run_polled (polled : List (KeyIdx × Bool)) {s : State} {rest : List Event}
    (hin : s.inputs = (polled.map fun kp => .key kp.1 kp.2) ++ rest) (hh : s.isHalted = false) :
    ∃ v, core.run polled.length s = .next v ∧ v.inputs = rest ∧ v.isHalted = false ∧
      (∀ k, v.keyDown k = latchAfter k polled (s.keyDown k)) ∧ KeyFrame s v := by
  induction polled generalizing s with
  | nil => exact ⟨s, rfl, hin, hh, fun _ => rfl, keyFrame_of_kept (KeptExcept.refl _ s)⟩
  | cons kp polled ih =>
    obtain ⟨k, p⟩ := kp
    let s₀ := s.setInputs ((polled.map fun kp => .key kp.1 kp.2) ++ rest)
    have hh₀ : s₀.isHalted = false := hh
    have hstep : step s = .next (keyEvent k p s₀) := step_cons hin
    have hframe : KeyFrame s (keyEvent k p s₀) :=
      (keyFrame_of_kept ((keptExcept_setInputs s _).mono (by decide))).trans (keyFrame_keyEvent k p s₀)
    obtain ⟨v, hrun, hrest, hhv, hlatch, hv⟩ :=
      ih (s := keyEvent k p s₀) (keyEvent_inputs k p s₀) ((isHalted_keyEvent k p s₀).trans hh₀)
    refine ⟨v, (run_succ hstep _).trans hrun, hrest, hhv, fun j => ?_, hframe.trans hv⟩
    rw [hlatch, keyDown_keyEvent hh₀]
    rfl

/-! ### Ticks (60_exceptions R263) -/

theorem keptExcept_tick (s : State) : KeptExcept [.DT, .ST] s (tick s) := by
  unfold tick
  split
  · exact KeptExcept.refl _ s
  · exact ((keptExcept_setDT s _).mono (by decide)).trans ((keptExcept_setST _ _).mono (by decide))

/-- The ticks due in a loop iteration, handled one after the other: each timer loses one per tick and stops at 0. -/
theorem run_ticks (n : Nat) {s : State} (hin : s.inputs = List.replicate n .tick) (hh : s.isHalted = false) :
    ∃ u, core.run n s = .next u ∧ u.inputs = [] ∧ u.DT.toNat = s.DT.toNat - n ∧ u.ST.toNat = s.ST.toNat - n ∧
      KeptExcept [.DT, .ST, .inputs] s u := by
  induction n generalizing s with
  | zero => exact ⟨s, rfl, hin, rfl, rfl, KeptExcept.refl _ s⟩
  | succ n ih =>
    let s₀ := s.setInputs (List.replicate n .tick)
    have hh₀ : s₀.isHalted = false := hh
    have hstep : step s = .next (tick s₀) := step_cons hin
    have htick : tick s₀ = (s₀.setDT (countDown s.DT)).setST (countDown s.ST) := tick_of_not_halted hh₀
    have hframe : KeptExcept [.DT, .ST, .inputs] s (tick s₀) :=
      ((keptExcept_setInputs s _).mono (by decide)).trans ((keptExcept_tick s₀).mono (by decide))
    obtain ⟨u, hrun, hnil, hDT, hST, hu⟩ := ih (s := tick s₀) (by rw [htick]; rfl) (by rw [htick]; exact hh)
    refine ⟨u, (run_succ hstep n).trans hrun, hnil, ?_, ?_, hframe.trans hu⟩
    · rw [hDT, htick, State.setST_DT, State.setDT_DT, countDown_toNat, Nat.sub_sub, Nat.add_comm]
    · rw [hST, htick, State.setST_ST, countDown_toNat, Nat.sub_sub, Nat.add_comm]

/-- Settles O57: the iteration is one step of the instruction, then the run of the polled keys, then the run of the
ticks; what the keys keep carries the timers from the instruction to the ticks. -/
theorem loopIterationTicksAfterTheInstruction : Obligations.LoopIterationTicksAfterTheInstruction := by
  unfold Obligations.LoopIterationTicksAfterTheInstruction
  intro s t i polled ticksDue hin hmode hpc hdec hexec hh
  let t₀ := t.setInputs ((polled.map fun kp => .key kp.1 kp.2) ++ List.replicate ticksDue .tick)
  have hrun₀ : core.run 1 s = .next t₀ := run_succ (step_runs_instruction hin hmode hpc hdec hexec) 0
  obtain ⟨v, hrunv, hticks, hhv, hlatch, hkeys⟩ := run_polled polled (s := t₀) rfl hh
  obtain ⟨u, hrunu, hnil, hDT, hST, hu⟩ := run_ticks ticksDue hticks hhv
  have hv : core.run (1 + polled.length) s = .next v := (run_add core hrun₀ _).trans hrunv
  have hframe : KeyFrame t v :=
    (keyFrame_of_kept ((keptExcept_setInputs t _).mono (by decide))).trans hkeys
  have hvDT : v.DT = t.DT := hframe.same hh (p := .DT) (by decide)
  have hvST : v.ST = t.ST := hframe.same hh (p := .ST) (by decide)
  exact ⟨v, u, hv, (run_add core hv _).trans hrunu, hlatch, hframe.ofRunning, fun r hm => (hframe.ofAwaiting r hm).2,
    by rw [hDT, hvDT], by rw [hST, hvST], hu, hnil⟩

/-! ### Reset (10_state R40, 20_memory R61) -/

/-- The memory map after reset, for every address: the ROM from 0x200 on, the font at 0x050 to 0x09F, and 0x00
elsewhere. -/
theorem get_resetMemory (rom : List Byte) (f : Font) (hfit : rom.length ≤ 3584) (a : Nat) :
    (resetMemory rom f).get a =
      if 0x200 ≤ a ∧ a < 0x200 + rom.length then rom.getD (a - 0x200) 0#8
      else if 0x050 ≤ a ∧ a < 0x0A0 then f.toList.getD (a - 0x050) 0#8
      else 0#8 := by
  have hlen : f.toList.length = 80 := f.length_toList
  have hrom := get_loadImage (m := []) rfl 0x200 rom (show 0x200 + rom.length ≤ 4096 by omega) a
  have hfont := get_loadImage (loadImage_wf (m := []) rfl 0x200 rom) 0x050 f.toList
    (show 0x050 + f.toList.length ≤ 4096 by omega) a
  rw [hlen] at hfont
  rw [show resetMemory rom f = loadImage (loadImage [] 0x200 rom) 0x050 f.toList from rfl, hfont, hrom]
  by_cases hinRom : 0x200 ≤ a ∧ a < 0x200 + rom.length
  · rw [if_neg (by omega), if_pos hinRom, if_pos hinRom]
  · rw [if_neg hinRom, if_neg hinRom]
    by_cases hinFont : 0x050 ≤ a ∧ a < 0x0A0
    · rw [if_pos hinFont, if_pos hinFont]
    · rw [if_neg hinFont, if_neg hinFont]
      exact if_neg hinFont

/-- Settles O59: every field but memory has its reset value by definition, and memory reads as `get_resetMemory` says. -/
theorem resetEstablishesTheResetState : Obligations.ResetEstablishesTheResetState := by
  unfold Obligations.ResetEstablishesTheResetState
  intro s rom q f rest hin hfit
  have hstep : step s = .next (resetWith rom q f (s.setInputs rest)) := by
    rw [step_cons hin, handleEvent, if_pos (by simpa [romFits] using hfit)]
  refine ⟨_, hstep, fun r => ?_, rfl, rfl, rfl, rfl, rfl, Framebuffer.cell_blank, fun k => ?_, rfl, rfl, rfl, rfl, rfl,
    resetMemory_wf rom f, fun a ha => ?_⟩
  · exact Vector.getElem_replicate r.isLt
  · exact Vector.getElem_replicate k.isLt
  · have hwrap : wrapAddr a = a := Nat.mod_eq_of_lt ha
    rw [← get_resetMemory rom f hfit a, State.memRead, hwrap]
    rfl

/-! ### The random byte (42_load_alu R171) -/

/-- Settles O37: `Vx` receives draw number `draws` under the mask, and the count moves on to the next draw. -/
theorem randomWritesAMaskedFreshDraw : Obligations.RandomWritesAMaskedFreshDraw := by
  unfold Obligations.RandomWritesAMaskedFreshDraw
  intro x kk s
  refine ⟨_, rfl, fun b => ?_, rfl, fun r hr => ?_, rfl, ?_⟩
  · simp
  · have hne : x ≠ r := by simpa [eq_comm] using hr
    simp [State.readV_writeV_other s _ hne]
  · exact (((keptExcept_writeV s x _).mono (by decide)).trans ((keptExcept_countDraw _).mono (by decide))).trans
      ((keptExcept_advance _).mono (by decide))

end Sys2Proof

/-! Proofs of the statements of 10_state: the invariant (R36), the precise halt (R33, R257), the access matrix (R22, R41),
what changes the mode, `PC` and the quirks (R32, R259, R35), and what no instruction observes (R25, R28, R29). -/

namespace Sys2Proof

open Sys2Proof.Machine Sys2Proof.Claims

/-! ### The decoder and the opcode table (30_encoding R92, R95) -/

theorem formatA_fields (w : Word) : formatA (opcodeField w) (nnnField w) = w := by
  apply BitVec.eq_of_getLsbD_eq
  intro i hi
  rw [formatA_bit]
  by_cases h : i < 12
  · simp [h, nnnField]
  · simp [h, opcodeField, show i - 12 < 4 by omega, show 12 + (i - 12) = i by omega]

theorem formatXK_fields (w : Word) : formatXK (opcodeField w) (xField w) (kkField w) = w := by
  have hnnn : (nibbleOfReg (xField w) ++ kkField w : BitVec 12) = nnnField w := by
    apply BitVec.eq_of_getLsbD_eq
    intro i hi
    refine BitVec.getLsbD_append.trans ?_
    by_cases h : i < 8
    · simp [h, hi, nnnField, kkField]
    · simp [h, hi, xField, nnnField, show i - 8 < 4 by omega,
        show 8 + (i - 8) = i by omega]
  rw [formatXK, hnnn]
  exact formatA_fields w

theorem formatXYN_fields (w : Word) : formatXYN (opcodeField w) (xField w) (yField w) (nField w) = w := by
  have hkk : (nibbleOfReg (yField w) ++ nField w : BitVec 8) = kkField w := by
    apply BitVec.eq_of_getLsbD_eq
    intro i hi
    refine BitVec.getLsbD_append.trans ?_
    by_cases h : i < 4
    · simp [h, hi, nField, kkField]
    · simp [h, hi, yField, kkField, show i - 4 < 4 by omega,
        show 4 + (i - 4) = i by omega]
  rw [formatXYN, hkk]
  exact formatXK_fields w

section
variable {w : Word} {op : Nibble}

theorem formatA_of_fields (hop : (opcodeField w).toNat = op.toNat) : formatA op (nnnField w) = w := by
  rw [← BitVec.eq_of_toNat_eq hop, formatA_fields]

theorem formatXK_of_fields {kk : Byte} (hop : (opcodeField w).toNat = op.toNat) (hkk : kkField w = kk) :
    formatXK op (xField w) kk = w := by
  rw [← BitVec.eq_of_toNat_eq hop, ← hkk, formatXK_fields]

theorem formatXYN_of_fields {n : Nibble} (hop : (opcodeField w).toNat = op.toNat) (hn : (nField w).toNat = n.toNat) :
    formatXYN op (xField w) (yField w) n = w := by
  rw [← BitVec.eq_of_toNat_eq hop, ← BitVec.eq_of_toNat_eq hn, formatXYN_fields]

end

theorem encode_of_decode0 {w : Word} {i : Instr} (h : decode0 w = .ok i) : encode i = w := by
  unfold decode0 at h
  split at h
  · cases h; exact Eq.symm ‹_›
  · split at h
    · cases h; exact Eq.symm ‹_›
    · cases h

theorem encode_of_decode8 {w : Word} {i : Instr} (hop : (opcodeField w).toNat = 8) (h : decode8 w = .ok i) :
    encode i = w := by
  unfold decode8 at h
  dsimp only at h
  split at h <;> cases h <;> exact formatXYN_of_fields hop ‹_›

theorem encode_of_decodeE {w : Word} {i : Instr} (hop : (opcodeField w).toNat = 14) (h : decodeE w = .ok i) :
    encode i = w := by
  unfold decodeE at h
  repeat' split at h
  all_goals cases h <;> exact formatXK_of_fields hop ‹_›

theorem encode_of_decodeF {w : Word} {i : Instr} (hop : (opcodeField w).toNat = 15) (h : decodeF w = .ok i) :
    encode i = w := by
  unfold decodeF at h
  dsimp only at h
  repeat' split at h
  all_goals cases h <;> exact formatXK_of_fields hop ‹_›

/-- A word that decodes is the encoding of its instruction. -/
theorem encode_of_decode {w : Word} {i : Instr} (h : decode w = .ok i) : encode i = w := by
  unfold decode at h
  split at h
  -- The case tags follow the arms of `decode`: `h_1` is family 0, `h_16` is family F.
  case h_1 hop => exact encode_of_decode0 h
  case h_6 hop =>
    split at h
    · cases h; exact formatXYN_of_fields hop (congrArg BitVec.toNat ‹_›)
    · cases h
  case h_9 hop => exact encode_of_decode8 hop h
  case h_10 hop =>
    split at h
    · cases h; exact formatXYN_of_fields hop (congrArg BitVec.toNat ‹_›)
    · cases h
  case h_14 hop => cases h; exact formatXYN_of_fields hop rfl
  case h_15 hop => exact encode_of_decodeE hop h
  case h_16 =>
    have hop : (opcodeField w).toNat = 15 := by
      have hlt := (opcodeField w).isLt
      simp only [imp_false] at *
      omega
    exact encode_of_decodeF hop h
  case h_2 hop | h_3 hop | h_11 hop | h_12 hop => cases h; exact formatA_of_fields hop
  all_goals cases h; exact formatXK_of_fields ‹_› rfl

/-- A row that accepts a word fixes the fields under its mask. -/
theorem fields_of_accepts {r : OpcodeRow} {w : Word} (h : r.accepts w = true) :
    opcodeField w &&& opcodeField r.mask = opcodeField r.matchBits ∧
      kkField w &&& kkField r.mask = kkField r.matchBits ∧ nField w &&& nField r.mask = nField r.matchBits := by
  rw [← eq_of_beq h]
  simp [opcodeField, kkField, nField, BitVec.extractLsb'_and]

/-- A word that a row of the table accepts decodes to an instruction with the row's mnemonic. Of `CLS` and `RET` the
whole word is fixed; of every other row the opcode is, with `n` or `kk` where the mask has them, and these are what the
dispatch tests. -/
theorem decode_of_row {r : OpcodeRow} {w : Word} (hr : r ∈ opcodeRows) (h : r.accepts w = true) :
    ∃ i, decode w = .ok i ∧ i.mnemonic = r.mnemonic := by
  obtain ⟨hop, hkk, hn⟩ := fields_of_accepts h
  have hnibble : ∀ n : Nibble, n &&& 15#4 = n := fun _ => BitVec.and_allOnes
  have hbyte : ∀ b : Byte, b &&& 255#8 = b := fun _ => BitVec.and_allOnes
  fin_cases hr
  · obtain rfl : w = 0x00E0#16 := BitVec.and_allOnes.symm.trans (eq_of_beq h)
    exact ⟨.cls, rfl, rfl⟩
  · obtain rfl : w = 0x00EE#16 := BitVec.and_allOnes.symm.trans (eq_of_beq h)
    exact ⟨.ret, rfl, rfl⟩
  all_goals
    simp [opcodeField, kkField, nField, hnibble, hbyte] at hop hkk hn
    simp [decode, decode8, decodeE, decodeF, opcodeField, kkField, nField, Instr.mnemonic, hop, hkk, hn]

open Laws.RowMatch in
/-- Every instruction's word is accepted by its row of the table. -/
theorem rowMatch : ∀ i, Statement i
  | .cls => cls
  | .ret => ret
  | .jp _ => jp _
  | .call _ => call _
  | .seImm _ _ => seImm _ _
  | .sneImm _ _ => sneImm _ _
  | .seReg _ _ => seReg _ _
  | .ldImm _ _ => ldImm _ _
  | .addImm _ _ => addImm _ _
  | .ldReg _ _ => ldReg _ _
  | .orReg _ _ => orReg _ _
  | .andReg _ _ => andReg _ _
  | .xorReg _ _ => xorReg _ _
  | .addReg _ _ => addReg _ _
  | .subReg _ _ => subReg _ _
  | .shr _ _ => shr _ _
  | .subnReg _ _ => subnReg _ _
  | .shl _ _ => shl _ _
  | .sneReg _ _ => sneReg _ _
  | .ldI _ => ldI _
  | .jpV0 _ => jpV0 _
  | .rnd _ _ => rnd _ _
  | .drw _ _ _ => drw _ _ _
  | .skp _ => skp _
  | .sknp _ => sknp _
  | .ldVxDt _ => ldVxDt _
  | .ldVxK _ => ldVxK _
  | .ldDtVx _ => ldDtVx _
  | .ldStVx _ => ldStVx _
  | .addIVx _ => addIVx _
  | .ldFVx _ => ldFVx _
  | .ldBVx _ => ldBVx _
  | .stRegs _ => stRegs _
  | .ldRegs _ => ldRegs _

/-- The legal words are those that decode (30_encoding R96, R103). -/
theorem legalWord_iff (w : Word) : legalWord w = true ↔ ∃ i, decode w = .ok i := by
  rw [legalWord, List.any_eq_true]
  constructor
  · rintro ⟨r, hr, h⟩
    obtain ⟨i, hi, -⟩ := decode_of_row hr h
    exact ⟨i, hi⟩
  · rintro ⟨i, hi⟩
    obtain ⟨r, hr, -, h⟩ := rowMatch i
    exact ⟨r, hr, encode_of_decode hi ▸ h⟩

/-! ### The two stack instructions (41_control_flow R140, R142) -/

/-- All that `00EE` can do: fault on an empty stack, or take the top entry into `PC`. -/
theorem exec_ret_cases {s t : State} (h : exec .ret s = .next t) :
    (s.SP.val = 0 ∧ t = s.raise .stackUnderflow (encode .ret)) ∨
    (∃ (u : State) (hs : 0 < s.SP.val), s.pop = some (s.stack[s.SP.val - 1], u) ∧
      t = u.setPC s.stack[s.SP.val - 1]) := by
  rw [exec, execRet] at h
  by_cases hs : 0 < s.SP.val
  · have hpop := State.pop_of_occupied s hs
    rw [hpop] at h
    exact .inr ⟨_, hs, hpop, (Host.Outcome.next.inj h).symm⟩
  · have hempty : s.SP.val = 0 := by omega
    rw [(State.pop_eq_none s).mpr hempty] at h
    exact .inl ⟨hempty, (Host.Outcome.next.inj h).symm⟩

/-- All that `2nnn` can do: fault on a full stack, or push the return address and jump. -/
theorem exec_call_cases {nnn : Imm12} {s t : State} (h : exec (.call nnn) s = .next t) :
    (s.SP.val = 16 ∧ t = s.raise .stackOverflow (encode (.call nnn))) ∨
    (s.SP.val < 16 ∧ ∃ u, s.push s.pcNext = some u ∧ t = u.setPC (addrOfImm nnn)) := by
  rw [exec, execCall] at h
  by_cases hs : s.SP.val < 16
  · have hpush := State.push_of_room s s.pcNext hs
    rw [hpush] at h
    exact .inr ⟨hs, _, hpush, (Host.Outcome.next.inj h).symm⟩
  · have hfull : s.SP.val = 16 := by omega
    rw [(State.push_eq_none s _).mpr hfull] at h
    exact .inl ⟨hfull, (Host.Outcome.next.inj h).symm⟩

/-! ### What an instruction may write (10_state R41) -/

/-- Two updates one after the other change what the one or the other changes. -/
theorem KeptExcept.seq {l l' : List Part} {s t u : State} (h : KeptExcept l s t) (h' : KeptExcept l' t u) :
    KeptExcept (l ++ l') s u :=
  (h.mono (List.subset_append_left l l')).trans (h'.mono (List.subset_append_right l l'))

theorem keptExcept_writeResultFlag (s : State) (x : RegIdx) (res : Byte) (f : Bool) :
    KeptExcept [.V] s (s.writeResultFlag x res f) :=
  (keptExcept_writeV s x res).trans (keptExcept_writeV _ vF _)

/-- No instruction writes a part of the state that the access matrix does not give it. -/
theorem exec_frame {i : Instr} {s t : State} (h : exec i s = .next t) : KeptExcept (partsWritten i) s t := by
  cases i with
  | ret =>
    obtain ⟨-, rfl⟩ | ⟨u, hs, hpop, rfl⟩ := exec_ret_cases h
    · exact (keptExcept_raise s _ _).mono (by simp [partsWritten])
    · exact ((keptExcept_pop hpop).seq (keptExcept_setPC u _)).mono (by simp [partsWritten])
  | call nnn =>
    obtain ⟨-, rfl⟩ | ⟨-, u, hpush, rfl⟩ := exec_call_cases h
    · exact (keptExcept_raise s _ _).mono (by simp [partsWritten])
    · exact ((keptExcept_push hpush).seq (keptExcept_setPC u _)).mono (by simp [partsWritten])
  | jp | jpV0 => cases h; exact keptExcept_setPC s _
  | seImm | sneImm | seReg | sneReg | skp | sknp => cases h; exact keptExcept_skipIf s _
  | cls => cases h; exact (keptExcept_setFb s _).seq (keptExcept_advance _)
  | ldImm | addImm | ldReg | orReg | andReg | xorReg | ldVxDt =>
    cases h; exact (keptExcept_writeV s _ _).seq (keptExcept_advance _)
  | addReg | subReg | shr | subnReg | shl =>
    cases h; exact (keptExcept_writeResultFlag s _ _ _).seq (keptExcept_advance _)
  | rnd =>
    cases h
    exact ((keptExcept_writeV s _ _).seq ((keptExcept_countDraw _).seq (keptExcept_advance _))).mono
      (by simp [partsWritten])
  | drw =>
    cases h; exact ((keptExcept_setFb s _).seq (keptExcept_writeV _ vF _)).seq (keptExcept_advance _)
  | ldVxK => cases h; exact (keptExcept_setMode s _).seq (keptExcept_advance _)
  | ldDtVx => cases h; exact (keptExcept_setDT s _).seq (keptExcept_advance _)
  | ldStVx => cases h; exact (keptExcept_setST s _).seq (keptExcept_advance _)
  | ldI | ldFVx => cases h; exact (keptExcept_setI s _).seq (keptExcept_advance _)
  | addIVx x =>
    cases h
    refine KeptExcept.seq (l := [.I, .V]) ?_ (keptExcept_advance _)
    split
    · exact (keptExcept_setI s _).seq (keptExcept_writeV _ vF _)
    · exact (keptExcept_setI s _).mono (by simp)
  | ldBVx | stRegs => cases h; exact (keptExcept_memWriteBytes s _ _).seq (keptExcept_advance _)
  | ldRegs => cases h; exact (keptExcept_loadRegsBelow s _).seq (keptExcept_advance _)

theorem readV_writeFlag_other (s : State) (f : Bool) {q : RegIdx} (h : q ≠ vF) :
    (s.writeFlag f).readV q = s.readV q := State.readV_writeV_other s _ h.symm

/-- No instruction writes a general register that the access matrix does not give it. -/
theorem exec_regs {i : Instr} {s t : State} (h : exec i s = .next t) :
    RegsKeptExcept (regsWritten s.quirks i) s t := by
  intro r hr
  cases i with
  | ldImm | addImm | ldReg | orReg | andReg | xorReg | rnd | ldVxDt =>
    cases h
    exact State.readV_writeV_other s _ (by simpa [regsWritten, eq_comm] using hr)
  | addReg | subReg | shr | subnReg | shl =>
    cases h
    simp only [regsWritten, List.mem_cons, List.not_mem_nil, or_false, not_or] at hr
    obtain ⟨hx, hvF⟩ := hr
    rw [State.readV_advance, State.readV_writeResultFlag, if_neg hvF, if_neg hx]
  | drw x y n =>
    cases h
    rw [State.readV_advance, readV_writeFlag_other _ _ (by simpa [regsWritten] using hr), State.readV_setFb]
  | addIVx x =>
    cases h
    cases hq : s.quirks.fx1eVf with
    | true => exact readV_writeFlag_other (s.setI _) _ (by simpa [regsWritten, hq] using hr)
    | false => rfl
  | ldRegs x =>
    cases h
    have hx : ¬ r.val ≤ x.val := by simpa [regsWritten] using hr
    rw [State.readV_advance, (s.loadRegsBelow_eq _).1, if_neg (by omega)]
  | _ => exact exec_frame h .V (by simp [partsWritten]) r

/-- Settles O15: the frame of every instruction, part by part and register by register. -/
theorem accessMatrixBoundsEveryInstruction : Obligations.AccessMatrixBoundsEveryInstruction :=
  fun _ _ _ h => ⟨exec_frame h, exec_regs h⟩

/-! ### What an instruction does to the mode and to `PC` -/

/-- All that an instruction can do to the mode and the fault record: nothing, the key wait, or one of the two stack
faults. -/
theorem exec_mode_cases {i : Instr} {s t : State} (h : exec i s = .next t) :
    (t.mode = s.mode ∧ t.fault = s.fault) ∨
    (∃ x, i = .ldVxK x ∧ t.mode = .awaitingKey x ∧ t.fault = s.fault) ∨
    (i = .ret ∧ s.SP.val = 0 ∧ t = s.raise .stackUnderflow (encode i)) ∨
    (∃ nnn, i = .call nnn ∧ s.SP.val = 16 ∧ t = s.raise .stackOverflow (encode i)) := by
  cases i with
  | ret =>
    obtain ⟨hSP, ht⟩ | ⟨u, hs, hpop, rfl⟩ := exec_ret_cases h
    · exact .inr (.inr (.inl ⟨rfl, hSP, ht⟩))
    · exact .inl ⟨keptExcept_pop hpop .mode (by simp), keptExcept_pop hpop .fault (by simp)⟩
  | call nnn =>
    obtain ⟨hSP, ht⟩ | ⟨hs, u, hpush, rfl⟩ := exec_call_cases h
    · exact .inr (.inr (.inr ⟨nnn, rfl, hSP, ht⟩))
    · exact .inl ⟨keptExcept_push hpush .mode (by simp), keptExcept_push hpush .fault (by simp)⟩
  | ldVxK x => cases h; exact .inr (.inl ⟨x, rfl, rfl, rfl⟩)
  | _ => exact .inl ⟨exec_frame h .mode (by simp [partsWritten]), exec_frame h .fault (by simp [partsWritten])⟩

theorem skipIf_PC_cases (s : State) (c : Bool) : (s.skipIf c).PC = s.PC + 2#16 ∨ (s.skipIf c).PC = s.PC + 4#16 := by
  cases c with
  | false => exact .inl rfl
  | true => exact .inr (BitVec.add_assoc s.PC 2#16 2#16)

/-- An instruction that is no transfer leaves `PC` at the next instruction or, if it is a skip, at the one after. -/
theorem exec_PC_of_not_transfer {i : Instr} {s t : State} (h : exec i s = .next t) (hi : isTransfer i = false) :
    t.PC = s.PC + 2#16 ∨ (isSkip i = true ∧ t.PC = s.PC + 4#16) := by
  cases i with
  | ret | jp | call | jpV0 => simp [isTransfer] at hi
  | seImm | sneImm | seReg | sneReg | skp | sknp =>
    cases h
    exact (skipIf_PC_cases s _).imp_right fun hPC => ⟨rfl, hPC⟩
  | addIVx => cases h; left; split <;> rfl
  | ldRegs =>
    cases h
    exact .inl (congrArg (· + 2#16) (keptExcept_loadRegsBelow s _ .PC (by decide)))
  | _ => cases h; exact .inl rfl

/-! ### The events that are no cycle -/

theorem isHalted_of_running {s : State} (h : s.mode = .running) : s.isHalted = false := by simp [State.isHalted, h]

theorem isHalted_of_awaitingKey {s : State} {r : RegIdx} (h : s.mode = .awaitingKey r) : s.isHalted = false := by
  simp [State.isHalted, h]

/-- All that a tick can do: nothing, or one step of both timers. -/
theorem tick_cases (s : State) :
    (s.isHalted = true ∧ tick s = s) ∨
    (s.isHalted = false ∧ tick s = (s.setDT (countDown s.DT)).setST (countDown s.ST)) := by
  cases h : s.isHalted <;> simp [tick, h]

/-- All that `QUIT` can do: nothing, or halt. -/
theorem quitEvent_cases (s : State) :
    (s.isHalted = true ∧ quitEvent s = s) ∨ (s.isHalted = false ∧ quitEvent s = s.setMode (.halted .quit)) := by
  cases h : s.isHalted <;> simp [quitEvent, h]

/-- What every event keeps, every step keeps: a property that does not speak of the events to come, proved for each of
the five events. -/
theorem step_keeps {P : State → Prop} (hinputs : ∀ s es, P s → P (s.setInputs es))
    (hcycle : ∀ s t, P s → cycle s = .next t → P t) (hkey : ∀ k p s, P s → P (keyEvent k p s))
    (htick : ∀ s, P s → P (tick s)) (hquit : ∀ s, P s → P (quitEvent s))
    (hreset : ∀ rom q f s, P (resetWith rom q f s)) {s t : State} (hs : P s) (h : step s = .next t) : P t := by
  obtain ⟨es, -, he⟩ | ⟨k, p, es, -, he⟩ | ⟨es, -, he⟩ | ⟨es, -, he⟩ | ⟨rom, q, f, es, -, -, he⟩ |
    ⟨rom, q, f, es, -, -, he⟩ := step_cases s <;> rw [he] at h
  · exact hcycle _ t (hinputs s es hs) h
  · cases h; exact hkey k p _ (hinputs s es hs)
  · cases h; exact htick _ (hinputs s es hs)
  · cases h; exact hquit _ (hinputs s es hs)
  · cases h; exact hreset rom q f _
  · cases h

/-! ### The invariant of 10_state R36 -/

theorem faultOnlyWhenHalted_of_none {s : State} (h : s.fault = none) : FaultOnlyWhenHalted s := by
  simp [FaultOnlyWhenHalted, h]

theorem fault_eq_none_of_not_halted {s : State} (h : FaultOnlyWhenHalted s) (hh : s.isHalted = false) :
    s.fault = none := by
  cases hf : s.fault with
  | none => rfl
  | some f =>
    have hm : s.mode = .halted f.kind.reason := by simpa [FaultOnlyWhenHalted, hf] using h
    simp [State.isHalted, hm] at hh

theorem faultOnlyWhenHalted_raise (s : State) (k : FaultKind) (iw : Word) : FaultOnlyWhenHalted (s.raise k iw) := by
  simp [FaultOnlyWhenHalted]

theorem Inv.faultOnlyWhenHalted {s : State} (h : Inv s) : FaultOnlyWhenHalted s := h.2.2.2.2

/-- The invariant speaks of memory, `I`, `PC`, the stack and the fault record alone. -/
theorem Inv.of_eq {s t : State} (h : Inv s) (hmem : t.mem = s.mem) (hI : t.I = s.I) (hPC : t.PC = s.PC)
    (hstack : t.stack = s.stack) (hSP : t.SP = s.SP) (hfault : FaultOnlyWhenHalted t) : Inv t := by
  obtain ⟨h₁, h₂, h₃, h₄, -⟩ := h
  refine ⟨by rwa [hmem], by rwa [hI], by rwa [hPC], ?_, hfault⟩
  simpa only [StackHoldsReturnAddresses, hstack, hSP] using h₄

theorem exec_keeps_wf {i : Instr} {s t : State} (h : exec i s = .next t) (hwf : s.mem.wf = true) :
    t.mem.wf = true := by
  cases i with
  | ldBVx | stRegs => cases h; exact Memory.wf_writeBytes hwf _ _
  | ret =>
    obtain ⟨-, rfl⟩ | ⟨u, hs, hpop, rfl⟩ := exec_ret_cases h
    · exact hwf
    · obtain ⟨-, -, rfl⟩ := State.pop_eq_some hpop
      exact hwf
  | call nnn =>
    obtain ⟨-, rfl⟩ | ⟨-, u, hpush, rfl⟩ := exec_call_cases h
    · exact hwf
    · obtain ⟨-, rfl⟩ := State.push_eq_some hpush
      exact hwf
  | ldRegs x =>
    cases h
    have hmem := congrArg State.mem (s.loadRegsBelow_eq (x.val + 1)).2
    exact (congrArg Memory.wf hmem).trans hwf
  | addIVx => cases h; split <;> exact hwf
  | _ => cases h; exact hwf

theorem addrOfImm_toNat (nnn : Imm12) : (addrOfImm nnn).toNat = nnn.toNat := by
  exact (BitVec.toNat_setWidth 16 nnn).trans (Nat.mod_eq_of_lt (by omega))

theorem wordOfByte_toNat (b : Byte) : (wordOfByte b).toNat = b.toNat := by
  exact (BitVec.toNat_setWidth 16 b).trans (Nat.mod_eq_of_lt (by omega))

theorem glyphAddr_toNat (b : Byte) : (glyphAddr b).toNat = 0x050 + 5 * b.toNat := by
  have := b.isLt
  simp only [glyphAddr, BitVec.toNat_add, BitVec.toNat_mul, BitVec.toNat_ofNat, wordOfByte_toNat, Config.fontBase,
    Config.glyphSize]
  omega

theorem exec_keeps_I_bound {i : Instr} {s t : State} (h : exec i s = .next t) (hI : s.I.toNat ≤ 0xFFF) :
    t.I.toNat ≤ 0xFFF := by
  cases i with
  | ldI nnn =>
    cases h
    have := nnn.isLt
    rw [State.advance_I, State.setI_I, addrOfImm_toNat]
    omega
  | ldFVx x =>
    cases h
    have := (s.readV x).isLt
    rw [State.advance_I, State.setI_I, glyphAddr_toNat]
    omega
  | addIVx x =>
    have hsum : (indexSum s.I (s.readV x)).toNat ≤ 0xFFF := by
      simp only [indexSum, BitVec.toNat_ofNat, Config.memSize]
      omega
    cases h
    split <;> exact hsum
  | _ =>
    have hsame : t.I = s.I := exec_frame h .I (by simp [partsWritten])
    rwa [hsame]

/-- The largest `PC` an instruction below the end of memory can leave is the target of `Bnnn` (R147). -/
theorem exec_PC_bound {i : Instr} {s t : State} (h : exec i s = .next t) (hPC : s.PC.toNat < 4096)
    (hstack : StackHoldsReturnAddresses s) : t.PC.toNat ≤ 0x10FE := by
  cases hi : isTransfer i with
  | false =>
    obtain hnext | ⟨-, hskip⟩ := exec_PC_of_not_transfer h hi
    · rw [hnext]; bv_omega
    · rw [hskip]; bv_omega
  | true =>
    cases i with
    | ret =>
      obtain ⟨-, rfl⟩ | ⟨u, hs, -, rfl⟩ := exec_ret_cases h
      · rw [State.raise_PC]; omega
      · have := (hstack ⟨s.SP.val - 1, by omega⟩ (by simp; omega)).2
        rw [State.setPC_PC]
        exact this.trans (by decide)
    | jp nnn =>
      cases h
      have := nnn.isLt
      rw [State.setPC_PC, addrOfImm_toNat]
      omega
    | call nnn =>
      obtain ⟨-, rfl⟩ | ⟨-, u, -, rfl⟩ := exec_call_cases h
      · rw [State.raise_PC]; omega
      · have := nnn.isLt
        rw [State.setPC_PC, addrOfImm_toNat]
        omega
    | jpV0 nnn =>
      cases h
      have := nnn.isLt
      have := (s.readV v0).isLt
      rw [State.setPC_PC, BitVec.toNat_add, addrOfImm_toNat, wordOfByte_toNat]
      omega
    | _ => simp [isTransfer] at hi

theorem exec_keeps_stack {i : Instr} {s t : State} (h : exec i s = .next t) (hPC : s.PC.toNat < 4096)
    (hstack : StackHoldsReturnAddresses s) : StackHoldsReturnAddresses t := by
  cases i with
  | ret =>
    obtain ⟨-, rfl⟩ | ⟨u, hs, hpop, rfl⟩ := exec_ret_cases h
    · exact hstack
    · obtain ⟨-, -, rfl⟩ := State.pop_eq_some hpop
      exact fun n hn => hstack n (Nat.lt_of_lt_of_le hn (Nat.sub_le _ _))
  | call nnn =>
    obtain ⟨-, rfl⟩ | ⟨-, u, hpush, rfl⟩ := exec_call_cases h
    · exact hstack
    · obtain ⟨hs, rfl⟩ := State.push_eq_some hpush
      intro n hn
      simp only [State.setPC_stack, State.setPC_SP, Vector.getElem_set] at hn ⊢
      split
      · rw [State.pcNext]
        bv_omega
      · exact hstack n (by omega)
  | _ =>
    have hSP : t.SP = s.SP := exec_frame h .SP (by simp [partsWritten])
    have hst : t.stack = s.stack := exec_frame h .stack (by simp [partsWritten])
    simpa only [StackHoldsReturnAddresses, hSP, hst] using hstack

theorem exec_keeps_faultOnlyWhenHalted {i : Instr} {s t : State} (h : exec i s = .next t) (hfault : s.fault = none) :
    FaultOnlyWhenHalted t := by
  obtain ⟨-, hf⟩ | ⟨x, -, -, hf⟩ | ⟨-, -, rfl⟩ | ⟨nnn, -, -, rfl⟩ := exec_mode_cases h
  · exact faultOnlyWhenHalted_of_none (hf.trans hfault)
  · exact faultOnlyWhenHalted_of_none (hf.trans hfault)
  · exact faultOnlyWhenHalted_raise s _ _
  · exact faultOnlyWhenHalted_raise s _ _

theorem exec_keeps_inv {i : Instr} {s t : State} (h : exec i s = .next t) (hinv : Inv s) (hPC : s.PC.toNat < 4096)
    (hfault : s.fault = none) : Inv t := by
  obtain ⟨hwf, hI, -, hstack, -⟩ := hinv
  exact ⟨exec_keeps_wf h hwf, exec_keeps_I_bound h hI, exec_PC_bound h hPC hstack, exec_keeps_stack h hPC hstack,
    exec_keeps_faultOnlyWhenHalted h hfault⟩

/-- In the invariant, a machine that is not halted has no fault record. -/
theorem Inv.fault_eq_none {s : State} (h : Inv s) (hh : s.isHalted = false) : s.fault = none :=
  fault_eq_none_of_not_halted h.faultOnlyWhenHalted hh

theorem cycle_keeps_inv {s t : State} (h : cycle s = .next t) (hinv : Inv s) : Inv t := by
  obtain ⟨-, hc⟩ | ⟨hm, -, hc⟩ | ⟨-, -, -, hc⟩ | ⟨hm, hPC, i, -, hc⟩ := cycle_cases s <;> rw [hc] at h
  · cases h; exact hinv
  · have hfault := hinv.fault_eq_none (isHalted_of_running hm)
    cases h
    exact hinv.of_eq rfl rfl rfl rfl rfl (faultOnlyWhenHalted_of_none hfault)
  · cases h
    exact hinv.of_eq rfl rfl rfl rfl rfl (faultOnlyWhenHalted_raise s _ _)
  · exact exec_keeps_inv h hinv hPC (hinv.fault_eq_none (isHalted_of_running hm))

theorem keyEvent_keeps_inv (k : KeyIdx) (p : Bool) {s : State} (hinv : Inv s) : Inv (keyEvent k p s) := by
  obtain ⟨-, he⟩ | ⟨r, hm, -, -, he⟩ | ⟨hh, -, he⟩ := keyEvent_cases k p s <;> rw [he]
  · exact hinv
  · have hfault : s.fault = none := hinv.fault_eq_none (isHalted_of_awaitingKey hm)
    exact hinv.of_eq rfl rfl rfl rfl rfl (faultOnlyWhenHalted_of_none hfault)
  · exact hinv.of_eq rfl rfl rfl rfl rfl hinv.faultOnlyWhenHalted

theorem tick_keeps_inv {s : State} (hinv : Inv s) : Inv (tick s) := by
  obtain ⟨-, he⟩ | ⟨-, he⟩ := tick_cases s <;> rw [he]
  · exact hinv
  · exact hinv.of_eq rfl rfl rfl rfl rfl hinv.faultOnlyWhenHalted

theorem quitEvent_keeps_inv {s : State} (hinv : Inv s) : Inv (quitEvent s) := by
  obtain ⟨-, he⟩ | ⟨hh, he⟩ := quitEvent_cases s <;> rw [he]
  · exact hinv
  · have hfault : s.fault = none := hinv.fault_eq_none hh
    exact hinv.of_eq rfl rfl rfl rfl rfl (faultOnlyWhenHalted_of_none hfault)

theorem reset_inv : Inv State.reset := by decide

theorem resetWith_inv (rom : List Byte) (q : Quirks) (f : Font) (s : State) : Inv (resetWith rom q f s) :=
  ⟨resetMemory_wf rom f, reset_inv.2⟩

/-- Settles O13: the invariant does not speak of the events to come. -/
theorem resetMeetsTheInvariant : Obligations.ResetMeetsTheInvariant :=
  fun _ => reset_inv

/-- Settles O12: a step is one event, and each event keeps the invariant. -/
theorem stepKeepsTheInvariant : Obligations.StepKeepsTheInvariant :=
  fun _ _ => step_keeps (fun _ _ hinv => hinv) (fun _ _ hinv h => cycle_keeps_inv h hinv)
    (fun k p _ => keyEvent_keeps_inv k p) (fun _ => tick_keeps_inv) (fun _ => quitEvent_keeps_inv) resetWith_inv

/-! ### The precise halt (60_exceptions R257) -/

/-- A machine that is not halted is precise exactly when it has no fault record. -/
theorem preciseHalt_of_not_halted {s : State} (hh : s.isHalted = false) : PreciseHalt s ↔ s.fault = none := by
  obtain hm | ⟨r, hm⟩ := mode_of_not_halted hh <;> simp [PreciseHalt, hm]

/-- An instruction that `PC` points at keeps the precise halt: if it faults, the record names it. -/
theorem exec_keeps_preciseHalt {i : Instr} {s t : State} (h : exec i s = .next t) (hm : s.mode = .running)
    (hfault : s.fault = none) (hPC : s.PC.toNat < Config.memSize) (hdec : decode (s.memReadWord s.PC.toNat) = .ok i) :
    PreciseHalt t := by
  have hword : encode i = s.memReadWord s.PC.toNat := encode_of_decode hdec
  obtain ⟨hmode, hf⟩ | ⟨x, -, hmode, hf⟩ | ⟨rfl, hSP, rfl⟩ | ⟨nnn, rfl, hSP, rfl⟩ := exec_mode_cases h
  · exact (preciseHalt_of_not_halted (isHalted_of_running (hmode.trans hm))).mpr (hf.trans hfault)
  · exact (preciseHalt_of_not_halted (isHalted_of_awaitingKey hmode)).mpr (hf.trans hfault)
  · rw [hword]
    exact ⟨rfl, hPC, hSP, hword.symm⟩
  · rw [hword]
    exact ⟨rfl, hPC, hSP, nnn, hdec⟩

theorem cycle_keeps_preciseHalt {s t : State} (h : cycle s = .next t) (hs : PreciseHalt s) : PreciseHalt t := by
  have hfault : s.mode = .running → s.fault = none := fun hm =>
    (preciseHalt_of_not_halted (isHalted_of_running hm)).mp hs
  obtain ⟨-, hc⟩ | ⟨hm, hPC, hc⟩ | ⟨-, hPC, ⟨e, hdec⟩, hc⟩ | ⟨hm, hPC, i, hdec, hc⟩ := cycle_cases s <;> rw [hc] at h
  · cases h; exact hs
  · cases h; exact ⟨hfault hm, hPC⟩
  · cases h
    have hillegal : legalWord (s.memReadWord s.PC.toNat) = false := by
      simp [← Bool.not_eq_true, legalWord_iff, hdec]
    exact ⟨rfl, hPC, hillegal⟩
  · exact exec_keeps_preciseHalt h hm (hfault hm) hPC hdec

theorem keyEvent_keeps_preciseHalt (k : KeyIdx) (p : Bool) {s : State} (hs : PreciseHalt s) :
    PreciseHalt (keyEvent k p s) := by
  obtain ⟨-, he⟩ | ⟨r, hm, -, -, he⟩ | ⟨hh, -, he⟩ := keyEvent_cases k p s <;> rw [he]
  · exact hs
  · exact (preciseHalt_of_not_halted (isHalted_of_awaitingKey hm)).mp hs
  · exact (preciseHalt_of_not_halted hh).mpr ((preciseHalt_of_not_halted hh).mp hs)

theorem tick_keeps_preciseHalt {s : State} (hs : PreciseHalt s) : PreciseHalt (tick s) := by
  obtain ⟨-, he⟩ | ⟨hh, he⟩ := tick_cases s <;> rw [he]
  · exact hs
  · exact (preciseHalt_of_not_halted hh).mpr ((preciseHalt_of_not_halted hh).mp hs)

theorem quitEvent_keeps_preciseHalt {s : State} (hs : PreciseHalt s) : PreciseHalt (quitEvent s) := by
  obtain ⟨-, he⟩ | ⟨hh, he⟩ := quitEvent_cases s <;> rw [he]
  · exact hs
  · exact (preciseHalt_of_not_halted hh).mp hs

/-- Settles O14: a step is one event, and each event keeps the precise halt; the one event that writes a record is a
cycle, whose instruction is the encoding of the word at `PC`. -/
theorem stepKeepsThePreciseHalt : Obligations.StepKeepsThePreciseHalt :=
  fun _ _ => step_keeps (fun _ _ hs => hs) (fun _ _ hs h => cycle_keeps_preciseHalt h hs)
    (fun k p _ => keyEvent_keeps_preciseHalt k p) (fun _ => tick_keeps_preciseHalt)
    (fun _ => quitEvent_keeps_preciseHalt) (fun _ _ _ _ => rfl)

/-! ### What changes the mode, `PC` and the quirks (10_state R32, R35, 60_exceptions R259) -/

theorem keptExcept_keyEvent (k : KeyIdx) (p : Bool) (s : State) : KeptExcept [.keys, .V, .mode] s (keyEvent k p s) := by
  obtain ⟨-, he⟩ | ⟨r, -, -, -, he⟩ | ⟨-, -, he⟩ := keyEvent_cases k p s <;> rw [he]
  · exact KeptExcept.refl _ s
  · exact ((keptExcept_setKey s k true).seq (keptExcept_writeV _ r _)).seq (keptExcept_setMode _ _)
  · exact (keptExcept_setKey s k p).mono (by simp)

theorem keptExcept_quitEvent (s : State) : KeptExcept [.mode] s (quitEvent s) := by
  obtain ⟨-, he⟩ | ⟨-, he⟩ := quitEvent_cases s <;> rw [he]
  · exact KeptExcept.refl _ s
  · exact keptExcept_setMode s _

/-- A cycle that runs no instruction changes nothing but the mode and the fault record. -/
theorem cycle_frame {s t : State} (h : cycle s = .next t) :
    KeptExcept [.mode, .fault] s t ∨
    (s.mode = .running ∧ s.PC.toNat < Config.memSize ∧ ∃ i, decode (s.memReadWord s.PC.toNat) = .ok i ∧
      exec i s = .next t) := by
  obtain ⟨-, hc⟩ | ⟨-, -, hc⟩ | ⟨-, -, -, hc⟩ | ⟨hm, hPC, i, hdec, hc⟩ := cycle_cases s <;> rw [hc] at h
  · cases h; exact .inl (KeptExcept.refl _ s)
  · cases h; exact .inl ((keptExcept_setMode s _).mono (by simp))
  · cases h; exact .inl (keptExcept_raise s _ _)
  · exact .inr ⟨hm, hPC, i, hdec, h⟩

/-- Settles O19: no event but `RESET` writes the quirks, and no row of the access matrix holds them. -/
theorem quirksChangeOnlyAtReset : Obligations.QuirksChangeOnlyAtReset := by
  unfold Obligations.QuirksChangeOnlyAtReset
  intro s t h hnoReset
  obtain ⟨es, -, he⟩ | ⟨k, p, es, -, he⟩ | ⟨es, -, he⟩ | ⟨es, -, he⟩ | ⟨rom, q, f, es, hin, -, -⟩ |
    ⟨rom, q, f, es, hin, -, -⟩ := step_cases s
  · rw [he] at h
    obtain hframe | ⟨-, -, i, -, hexec⟩ := cycle_frame h
    · exact hframe .quirks (by simp)
    · exact exec_frame hexec .quirks (by cases i <;> simp [partsWritten])
  · cases he.symm.trans h; exact keptExcept_keyEvent k p _ .quirks (by simp)
  · cases he.symm.trans h; exact keptExcept_tick _ .quirks (by simp)
  · cases he.symm.trans h; exact keptExcept_quitEvent _ .quirks (by simp)
  · exact absurd (by rw [hin]; rfl) (hnoReset rom q f)
  · exact absurd (by rw [hin]; rfl) (hnoReset rom q f)

/-- Settles O18: a cycle that runs no instruction, a key event, a tick and `QUIT` all have `PC` in their frame. -/
theorem onlyInstructionsAndResetMovePC : Obligations.OnlyInstructionsAndResetMovePC := by
  unfold Obligations.OnlyInstructionsAndResetMovePC
  intro s t h hPC
  obtain ⟨es, hin, he⟩ | ⟨k, p, es, -, he⟩ | ⟨es, -, he⟩ | ⟨es, -, he⟩ | ⟨rom, q, f, es, hin, -, -⟩ |
    ⟨rom, q, f, es, hin, -, -⟩ := step_cases s
  · rw [he] at h
    obtain hframe | ⟨hm, hlt, i, hdec, -⟩ := cycle_frame h
    · exact absurd (hframe .PC (by simp)) hPC
    · exact .inl ⟨⟨es, hin⟩, hm, hlt, (legalWord_iff _).mpr ⟨i, hdec⟩⟩
  · cases he.symm.trans h; exact absurd (keptExcept_keyEvent k p _ .PC (by simp)) hPC
  · cases he.symm.trans h; exact absurd (keptExcept_tick _ .PC (by simp)) hPC
  · cases he.symm.trans h; exact absurd (keptExcept_quitEvent _ .PC (by simp)) hPC
  · exact .inr ⟨rom, q, f, by rw [hin]; rfl⟩
  · exact .inr ⟨rom, q, f, by rw [hin]; rfl⟩

theorem byteOfKey_toNat (k : KeyIdx) : (byteOfKey k).toNat = k.val := by
  have := k.isLt
  simp [byteOfKey]
  omega

/-- All that a cycle can do to the mode: nothing, the key wait, a fault, or the end of memory. -/
theorem cycle_mode_cases {s t : State} (h : cycle s = .next t) (hne : t.mode ≠ s.mode) :
    s.mode = .running ∧
    ((∃ x, decode (s.memReadWord s.PC.toNat) = .ok (.ldVxK x) ∧ t.mode = .awaitingKey x) ∨
      (∃ k : FaultKind, t.mode = .halted k.reason ∧ t.fault.map FaultRecord.kind = some k) ∨
      (4096 ≤ s.PC.toNat ∧ t.mode = .halted .endOfMemory)) := by
  obtain ⟨-, hc⟩ | ⟨hm, hPC, hc⟩ | ⟨hm, -, -, hc⟩ | ⟨hm, -, i, hdec, hc⟩ := cycle_cases s <;> rw [hc] at h
  · cases h; exact absurd rfl hne
  · cases h; exact ⟨hm, .inr (.inr ⟨hPC, rfl⟩)⟩
  · cases h; exact ⟨hm, .inr (.inl ⟨.decodeFault, rfl, rfl⟩)⟩
  · obtain ⟨hmode, -⟩ | ⟨x, rfl, hmode, -⟩ | ⟨-, -, rfl⟩ | ⟨nnn, -, -, rfl⟩ := exec_mode_cases h
    · exact absurd hmode hne
    · exact ⟨hm, .inl ⟨x, hdec, hmode⟩⟩
    · exact ⟨hm, .inr (.inl ⟨.stackUnderflow, rfl, rfl⟩)⟩
    · exact ⟨hm, .inr (.inl ⟨.stackOverflow, rfl, rfl⟩)⟩

/-- Settles O17: what each event can do to the mode. -/
theorem modeChangesOnlyAsListed : Obligations.ModeChangesOnlyAsListed := by
  unfold Obligations.ModeChangesOnlyAsListed
  intro s t h hne
  obtain ⟨es, hin, he⟩ | ⟨k, p, es, hin, he⟩ | ⟨es, -, he⟩ | ⟨es, hin, he⟩ | ⟨rom, q, f, es, hin, -, he⟩ |
    ⟨rom, q, f, es, -, -, he⟩ := step_cases s <;> rw [he] at h
  · obtain ⟨hm, ⟨x, hdec, hmode⟩ | hfault | hend⟩ := cycle_mode_cases h hne
    · exact .inl ⟨hm, ⟨es, hin⟩, x, hdec, hmode⟩
    · exact .inr (.inl ⟨hm, ⟨es, hin⟩, hfault⟩)
    · exact .inr (.inr (.inl ⟨hm, ⟨es, hin⟩, hend⟩))
  · obtain ⟨-, hk⟩ | ⟨r, hm, rfl, hup, hk⟩ | ⟨-, -, hk⟩ := keyEvent_cases k p (s.setInputs es) <;>
      rw [hk] at h <;> cases h
    · exact absurd rfl hne
    · refine .inr (.inr (.inr (.inl ⟨r, k, hm, ⟨by rw [hin]; rfl, hup⟩, rfl, ?_⟩)))
      rw [State.readV_setMode, State.readV_writeV_same, byteOfKey_toNat]
    · exact absurd rfl hne
  · cases h; exact absurd (keptExcept_tick _ .mode (by simp)) hne
  · obtain ⟨-, hq⟩ | ⟨hh, hq⟩ := quitEvent_cases (s.setInputs es) <;> rw [hq] at h <;> cases h
    · exact absurd rfl hne
    · exact .inr (.inr (.inr (.inr (.inl ⟨by rw [hin]; rfl, hh, rfl⟩))))
  · cases h; exact .inr (.inr (.inr (.inr (.inr ⟨rom, q, f, by rw [hin]; rfl, rfl⟩))))
  · cases h

/-! ### The call stack from empty to full (41_control_flow R142, S7 of 95_test_vectors) -/

/-- A call that the stack has room for succeeds and raises the depth by one. -/
theorem exec_call_of_room (nnn : Imm12) {s : State} (hroom : s.SP.val < 16) :
    ∃ u, exec (.call nnn) s = .next u ∧ u.SP.val = s.SP.val + 1 ∧ KeptExcept [.stack, .SP, .PC] s u := by
  have hpush := State.push_of_room s s.pcNext hroom
  exact ⟨_, by rw [exec, execCall, hpush], rfl, (keptExcept_push hpush).seq (keptExcept_setPC _ _)⟩

/-- Calls that the stack has room for all succeed, whatever their targets. -/
theorem execCalls_of_room (targets : List Imm12) {s : State} (hroom : s.SP.val + targets.length ≤ 16) :
    ∃ t, execCalls targets s = .next t ∧ t.SP.val = s.SP.val + targets.length ∧ KeptExcept [.stack, .SP, .PC] s t := by
  induction targets generalizing s with
  | nil => exact ⟨s, rfl, rfl, KeptExcept.refl _ s⟩
  | cons nnn rest ih =>
    rw [List.length_cons] at hroom
    obtain ⟨u, hcall, hSPu, hu⟩ := exec_call_of_room nnn (s := s) (by omega)
    obtain ⟨t, hrest, hSPt, ht⟩ := ih (s := u) (by omega)
    exact ⟨t, by rw [execCalls, hcall]; exact hrest, by rw [List.length_cons]; omega, hu.trans ht⟩

/-- Settles O28: sixteen calls fill an empty stack, and a call on a full stack faults. -/
theorem sixteenCallsSucceedAndTheSeventeenthFaults : Obligations.SixteenCallsSucceedAndTheSeventeenthFaults := by
  unfold Obligations.SixteenCallsSucceedAndTheSeventeenthFaults
  intro targets s hlen hempty
  obtain ⟨t, hcalls, hSP, hkept⟩ := execCalls_of_room targets (s := s) (by omega)
  have hfull : t.SP.val = 16 := by omega
  refine ⟨t, hcalls, hfull, hkept, fun nnn => ?_⟩
  exact ⟨_, by rw [exec, execCall, (State.push_eq_none t _).mpr hfull], rfl, rfl, keptExcept_raise t _ _⟩

/-! ### The snapshot (10_state R39) -/

/-- In a list of blocks of length `n`, put one after the other, element `j` of block `i` stands at index `n * i + j`. -/
theorem getElem?_flatMap_blocks {α β : Type} {f : α → List β} {n : Nat} (hf : ∀ a, (f a).length = n) (l : List α)
    {i j : Nat} (hj : j < n) : (l.flatMap f)[n * i + j]? = l[i]?.bind fun a => (f a)[j]? := by
  induction l generalizing i with
  | nil => simp
  | cons a l ih =>
    rw [List.flatMap_cons]
    cases i with
    | zero => rw [List.getElem?_append_left (by rw [hf]; omega)]; simp
    | succ i =>
      rw [List.getElem?_append_right (by rw [hf, Nat.mul_succ]; omega), hf,
        show n * (i + 1) + j - n = n * i + j by rw [Nat.mul_succ]; omega, ih, List.getElem?_cons_succ]

/-- Settles O50: the snapshot is 32 blocks of 64 cells. -/
theorem snapshotIsRowMajor : Obligations.SnapshotIsRowMajor := by
  unfold Obligations.SnapshotIsRowMajor
  intro s
  refine ⟨by simp [State.snapshot], fun y x => ?_⟩
  rw [State.snapshot, getElem?_flatMap_blocks (fun _ => by simp) _ x.isLt]
  simp

/-! ### What no instruction observes (10_state R25, R28, R29) -/

/-- The state with its sound timer, framebuffer and stack entries replaced by functions of themselves. -/
def mapHidden (g : Byte → Byte) (f : Framebuffer → Framebuffer) (k : Vector Word 16 → Vector Word 16) (s : State) :
    State := { s with ST := g s.ST, fb := f s.fb, stack := k s.stack }

section
variable (g : Byte → Byte) (f : Framebuffer → Framebuffer) (k : Vector Word 16 → Vector Word 16) (s : State)

@[simp] theorem mapHidden_readV (r : RegIdx) : (mapHidden g f k s).readV r = s.readV r := rfl
@[simp] theorem mapHidden_pcNext : (mapHidden g f k s).pcNext = s.pcNext := rfl
@[simp] theorem mapHidden_quirks : (mapHidden g f k s).quirks = s.quirks := rfl
@[simp] theorem mapHidden_keyDown (j : KeyIdx) : (mapHidden g f k s).keyDown j = s.keyDown j := rfl
@[simp] theorem mapHidden_isHalted : (mapHidden g f k s).isHalted = s.isHalted := rfl

theorem push_mapHidden (a : Word) : (mapHidden g f id s).push a = (s.push a).map (mapHidden g f id) := by
  by_cases h : s.SP.val < 16
  · rw [State.push_of_room s a h, State.push_of_room (mapHidden g f id s) a h]
    rfl
  · have hfull : s.SP.val = 16 := by omega
    rw [(State.push_eq_none s a).mpr hfull, (State.push_eq_none (mapHidden g f id s) a).mpr hfull]
    rfl

theorem pop_mapHidden :
    (mapHidden g f id s).pop = s.pop.map fun p => (p.1, mapHidden g f id p.2) := by
  by_cases h : 0 < s.SP.val
  · rw [State.pop_of_occupied s h, State.pop_of_occupied (mapHidden g f id s) h]
    rfl
  · have hempty : s.SP.val = 0 := by omega
    rw [(State.pop_eq_none s).mpr hempty, (State.pop_eq_none (mapHidden g f id s)).mpr hempty]
    rfl

theorem drawRows_mapHidden (vx vy n : Nat) : (mapHidden g id k s).drawRows vx vy n = s.drawRows vx vy n := by
  induction n with
  | zero => rfl
  | succ n ih => simp only [State.drawRows, ih]; rfl

theorem loadRegsBelow_mapHidden (n : Nat) :
    (mapHidden g f k s).loadRegsBelow n = mapHidden g f k (s.loadRegsBelow n) := by
  induction n with
  | zero => rfl
  | succ n ih =>
    simp only [State.loadRegsBelow, ih]
    split <;> rfl

/-- An instruction that does not write the sound timer does not read it either, and so for the framebuffer, and for the
stack and its depth: it does the same whatever stands there, and leaves it as it is. -/
theorem exec_mapHidden (i : Instr) (hST : .ST ∈ partsWritten i → g = id) (hfb : .fb ∈ partsWritten i → f = id)
    (hstack : .SP ∈ partsWritten i → k = id) :
    exec i (mapHidden g f k s) = mapNext (mapHidden g f k) (exec i s) := by
  cases i with
  | ldStVx x =>
    obtain rfl := hST (by simp [partsWritten])
    rfl
  | cls =>
    obtain rfl := hfb (by simp [partsWritten])
    rfl
  | drw x y n =>
    obtain rfl := hfb (by simp [partsWritten])
    simp only [exec, execDrw, mapHidden_readV, drawRows_mapHidden]
    rfl
  | ret =>
    obtain rfl := hstack (by simp [partsWritten])
    simp only [exec, execRet, pop_mapHidden]
    cases s.pop <;> rfl
  | call nnn =>
    obtain rfl := hstack (by simp [partsWritten])
    simp only [exec, execCall, mapHidden_pcNext, push_mapHidden]
    cases s.push s.pcNext <;> rfl
  | addIVx x =>
    cases h : s.quirks.fx1eVf <;> simp only [exec, execAddIVx, mapHidden_quirks, h] <;> rfl
  | ldRegs x =>
    simp only [exec, execLdRegs, loadRegsBelow_mapHidden]
    rfl
  | _ => rfl

variable {g f k s} in
/-- `exec_mapHidden` for an instruction that completes. -/
theorem exec_mapHidden_next {i : Instr} {t : State} (h : exec i s = .next t) (hST : .ST ∈ partsWritten i → g = id)
    (hfb : .fb ∈ partsWritten i → f = id) (hstack : .SP ∈ partsWritten i → k = id) :
    exec i (mapHidden g f k s) = .next (mapHidden g f k t) := by
  rw [exec_mapHidden g f k s i hST hfb hstack, h, mapNext]

end

/-- Settles O20: of all instructions `Fx18` alone has the sound timer in its row of the access matrix, and it overwrites
it. -/
theorem noInstructionReadsTheSoundTimer : Obligations.NoInstructionReadsTheSoundTimer := by
  unfold Obligations.NoInstructionReadsTheSoundTimer
  intro i s t b h
  cases i with
  | ldStVx x => exact ⟨t, h, KeptExcept.refl _ t⟩
  | _ =>
    exact ⟨t.setST b, exec_mapHidden_next (g := fun _ => b) h (by simp [partsWritten]) (fun _ => rfl) (fun _ => rfl),
      keptExcept_setST t b⟩

/-- Settles O21: of the instructions other than `Dxyn`, `00E0` alone has the framebuffer in its row of the access matrix,
and it overwrites it. -/
theorem onlyDrawObservesTheFramebuffer : Obligations.OnlyDrawObservesTheFramebuffer := by
  unfold Obligations.OnlyDrawObservesTheFramebuffer
  intro i s t f h hdrw
  cases i with
  | cls => exact ⟨t, h, KeptExcept.refl _ t⟩
  | drw x y n => exact absurd rfl (hdrw x y n)
  | _ =>
    exact ⟨t.setFb f, exec_mapHidden_next (f := fun _ => f) h (fun _ => rfl) (by simp [partsWritten]) (fun _ => rfl),
      keptExcept_setFb t f⟩

/-! ### The four cases of a cycle as equations (40_instruction_cycle R120) -/

section
variable {s : State}

theorem cycle_of_not_running (hm : s.mode ≠ .running) : cycle s = .next s := by
  unfold cycle
  split
  · rfl
  · rfl
  · contradiction

theorem cycle_of_endOfMemory (hm : s.mode = .running) (hPC : Config.memSize ≤ s.PC.toNat) :
    cycle s = .next (s.setMode (.halted .endOfMemory)) := by simp [cycle, hm, hPC]

theorem cycle_of_illegal {e : DecodeReject} (hm : s.mode = .running) (hPC : s.PC.toNat < Config.memSize)
    (hdec : decode (s.memReadWord s.PC.toNat) = .error e) :
    cycle s = .next (s.raise .decodeFault (s.memReadWord s.PC.toNat)) := by
  simp [cycle, hm, Nat.not_le.mpr hPC, hdec]

theorem cycle_of_legal {i : Instr} (hm : s.mode = .running) (hPC : s.PC.toNat < Config.memSize)
    (hdec : decode (s.memReadWord s.PC.toNat) = .ok i) : cycle s = exec i s := by
  simp [cycle, hm, Nat.not_le.mpr hPC, hdec]

end

/-! ### Dead stack entries (10_state R25) -/

/-- The state with another stack, of the same depth. -/
abbrev withStack (v : Vector Word 16) (s : State) : State := mapHidden id id (fun _ => v) s

/-- States that agree but for dead entries are one state with two stacks, alike below `SP`. -/
theorem agreeButDeadStack_iff {s s' : State} :
    AgreeButDeadStack s s' ↔
      ∃ v, s' = withStack v s ∧ ∀ n : Fin 16, n.val < s.SP.val → v[n.val] = s.stack[n.val] := by
  constructor
  · rintro ⟨heq, hlive⟩
    exact ⟨s'.stack, heq, hlive⟩
  · rintro ⟨v, rfl, hlive⟩
    exact ⟨rfl, hlive⟩

section
variable {v : Vector Word 16} {s : State} (hlive : ∀ n : Fin 16, n.val < s.SP.val → v[n.val] = s.stack[n.val])
include hlive

/-- What keeps the stack and its depth keeps the agreement. -/
theorem agree_withStack_of_kept {t : State} (hstack : t.stack = s.stack) (hSP : t.SP = s.SP) :
    AgreeButDeadStack t (withStack v t) := ⟨rfl, by rwa [hSP, hstack]⟩

/-- The two stack instructions see no dead entry: a return takes a live one, and a call writes the one it makes live. -/
theorem exec_ret_withStack {t : State} (h : exec .ret s = .next t) :
    ∃ t', exec .ret (withStack v s) = .next t' ∧ AgreeButDeadStack t t' := by
  obtain ⟨hempty, rfl⟩ | ⟨u, hs, hpop, rfl⟩ := exec_ret_cases h
  · have hpop : (withStack v s).pop = none := (State.pop_eq_none _).mpr hempty
    exact ⟨(withStack v s).raise .stackUnderflow (encode .ret), by rw [exec, execRet, hpop], rfl, hlive⟩
  · obtain ⟨-, -, rfl⟩ := State.pop_eq_some hpop
    have htop : v[s.SP.val - 1] = s.stack[s.SP.val - 1] := hlive ⟨s.SP.val - 1, by omega⟩ (by simp; omega)
    have hpop' := State.pop_of_occupied (withStack v s) hs
    refine ⟨_, by rw [exec, execRet, hpop'], ?_, fun n hn => hlive n (Nat.lt_of_lt_of_le hn (Nat.sub_le _ _))⟩
    exact congrArg (State.setPC _) htop

theorem exec_call_withStack {nnn : Imm12} {t : State} (h : exec (.call nnn) s = .next t) :
    ∃ t', exec (.call nnn) (withStack v s) = .next t' ∧ AgreeButDeadStack t t' := by
  obtain ⟨hfull, rfl⟩ | ⟨hs, u, hpush, rfl⟩ := exec_call_cases h
  · have hpush : (withStack v s).push s.pcNext = none := (State.push_eq_none _ _).mpr hfull
    exact ⟨(withStack v s).raise .stackOverflow (encode (.call nnn)),
      by rw [exec, execCall, mapHidden_pcNext, hpush], rfl, hlive⟩
  · obtain ⟨-, rfl⟩ := State.push_eq_some hpush
    have hpush' := State.push_of_room (withStack v s) s.pcNext hs
    refine ⟨_, by rw [exec, execCall, mapHidden_pcNext, hpush'], rfl, fun n hn => ?_⟩
    show (v.set s.SP.val s.pcNext)[n.val] = (s.stack.set s.SP.val s.pcNext)[n.val]
    simp only [State.setPC_SP] at hn
    rw [Vector.getElem_set, Vector.getElem_set]
    split
    · rfl
    · exact hlive n (by omega)

theorem exec_withStack {i : Instr} {t : State} (h : exec i s = .next t) :
    ∃ t', exec i (withStack v s) = .next t' ∧ AgreeButDeadStack t t' := by
  cases i with
  | ret => exact exec_ret_withStack hlive h
  | call => exact exec_call_withStack hlive h
  | _ =>
    exact ⟨withStack v t,
      exec_mapHidden_next (k := fun _ => v) h (fun _ => rfl) (fun _ => rfl) (by simp [partsWritten]),
      agree_withStack_of_kept hlive (exec_frame h .stack (by simp [partsWritten]))
        (exec_frame h .SP (by simp [partsWritten]))⟩

theorem cycle_withStack {t : State} (h : cycle s = .next t) :
    ∃ t', cycle (withStack v s) = .next t' ∧ AgreeButDeadStack t t' := by
  have hkept : ∀ {t : State}, t.stack = s.stack → t.SP = s.SP → AgreeButDeadStack t (withStack v t) :=
    agree_withStack_of_kept hlive
  obtain ⟨hm, hc⟩ | ⟨hm, hPC, hc⟩ | ⟨hm, hPC, ⟨e, hdec⟩, hc⟩ | ⟨hm, hPC, i, hdec, hc⟩ := cycle_cases s <;> rw [hc] at h
  · cases h
    exact ⟨_, cycle_of_not_running (s := withStack v s) hm, hkept rfl rfl⟩
  · cases h
    exact ⟨_, cycle_of_endOfMemory (s := withStack v s) hm hPC, hkept rfl rfl⟩
  · cases h
    exact ⟨_, cycle_of_illegal (s := withStack v s) hm hPC hdec, hkept rfl rfl⟩
  · rw [cycle_of_legal (s := withStack v s) hm hPC hdec]
    exact exec_withStack hlive h

end

theorem endWait_withStack (k : KeyIdx) (v : Vector Word 16) (s : State) :
    endWait (withStack v s) k = withStack v (endWait s k) := by
  have hmode : (withStack v s).mode = s.mode := rfl
  cases hm : s.mode with
  | awaitingKey r => simp only [endWait, hmode, hm]; rfl
  | running | halted => simp only [endWait, hmode, hm]

theorem keyEvent_withStack (k : KeyIdx) (p : Bool) (v : Vector Word 16) (s : State) :
    keyEvent k p (withStack v s) = withStack v (keyEvent k p s) := by
  unfold keyEvent
  rw [mapHidden_isHalted, mapHidden_keyDown]
  split
  · rfl
  · split
    · exact endWait_withStack k v (s.setKey k p)
    · rfl

theorem tick_withStack (v : Vector Word 16) (s : State) : tick (withStack v s) = withStack v (tick s) := by
  unfold tick
  rw [mapHidden_isHalted]
  split <;> rfl

theorem quitEvent_withStack (v : Vector Word 16) (s : State) :
    quitEvent (withStack v s) = withStack v (quitEvent s) := by
  unfold quitEvent
  rw [mapHidden_isHalted]
  split <;> rfl

/-- A step whose next event is a `CYCLE` is that cycle, in the state with the events that remain. -/
theorem step_of_cycleIsNext {s : State} {es : List Event} (h : CycleIsNext s es) :
    step s = cycle (s.setInputs es) := by
  obtain hin | ⟨hin, rfl⟩ := h
  · rw [step_cons hin, handleEvent]
  · rw [step_nil hin, ← hin]
    rfl

/-- Settles O22: every event commutes with a change of the dead entries. -/
theorem deadStackEntriesAreUnobservable : Obligations.DeadStackEntriesAreUnobservable := by
  unfold Obligations.DeadStackEntriesAreUnobservable
  intro s s' t hs h
  obtain ⟨v, rfl, hlive⟩ := agreeButDeadStack_iff.mp hs
  have hkept : ∀ {t : State}, t.stack = s.stack → t.SP = s.SP → AgreeButDeadStack t (withStack v t) :=
    agree_withStack_of_kept hlive
  obtain ⟨es, hin, he⟩ | ⟨k, p, es, hin, he⟩ | ⟨es, hin, he⟩ | ⟨es, hin, he⟩ | ⟨rom, q, f, es, hin, hfit, he⟩ |
    ⟨rom, q, f, es, hin, -, he⟩ := step_cases s <;> rw [he] at h
  · rw [step_of_cycleIsNext (s := withStack v s) hin]
    exact cycle_withStack (s := s.setInputs es) hlive h
  all_goals rw [step_cons (s := withStack v s) hin]
  · cases h
    have hframe := keptExcept_keyEvent k p (s.setInputs es)
    exact ⟨_, congrArg Host.Outcome.next (keyEvent_withStack k p v (s.setInputs es)),
      hkept (hframe .stack (by simp)) (hframe .SP (by simp))⟩
  · cases h
    have hframe := keptExcept_tick (s.setInputs es)
    exact ⟨_, congrArg Host.Outcome.next (tick_withStack v (s.setInputs es)),
      hkept (hframe .stack (by simp)) (hframe .SP (by simp))⟩
  · cases h
    have hframe := keptExcept_quitEvent (s.setInputs es)
    exact ⟨_, congrArg Host.Outcome.next (quitEvent_withStack v (s.setInputs es)),
      hkept (hframe .stack (by simp)) (hframe .SP (by simp))⟩
  · exact ⟨t, by rw [handleEvent, if_pos hfit, ← h]; rfl, rfl, fun _ _ => rfl⟩
  · cases h

end Sys2Proof

/-! Proofs of the statements of 20_memory: every step but an overlong ROM's answers (R63, R254), the decimal store, the
register dump and the register load (R193 to R196), and a store to the next instruction (R73). -/

namespace Sys2Proof

open Sys2Proof.Machine Sys2Proof.Claims

/-! ### Every instruction, every cycle and every step answers -/

/-- No operand and no state stops an instruction: the two stack faults are next states too. -/
theorem exec_answers (i : Instr) (s : State) : ∃ t, exec i s = .next t := by
  cases i with
  | ret =>
    rw [exec, execRet]
    cases s.pop <;> exact ⟨_, rfl⟩
  | call nnn =>
    rw [exec, execCall]
    cases s.push s.pcNext <;> exact ⟨_, rfl⟩
  | _ => exact ⟨_, rfl⟩

theorem cycle_answers (s : State) : ∃ t, cycle s = .next t := by
  obtain ⟨-, hc⟩ | ⟨-, -, hc⟩ | ⟨-, -, -, hc⟩ | ⟨-, -, i, -, hc⟩ := cycle_cases s
  · exact ⟨_, hc⟩
  · exact ⟨_, hc⟩
  · exact ⟨_, hc⟩
  · exact hc ▸ exec_answers i s

/-- Settles O11: of the events only `RESET` looks at a ROM, and the others answer because `cycle` does. -/
theorem stepAnswersUnlessTheRomIsTooLong : Obligations.StepAnswersUnlessTheRomIsTooLong := by
  unfold Obligations.StepAnswersUnlessTheRomIsTooLong
  refine fun s => ⟨fun rom q f hhead hlong => ?_, fun hshort => ?_⟩
  · obtain ⟨rest, hin⟩ := List.head?_eq_some_iff.mp hhead
    have hfit : ¬ romFits rom = true := by simpa [romFits] using hlong
    rw [step_cons hin, handleEvent, if_neg hfit]
  · obtain ⟨es, -, he⟩ | ⟨k, p, es, -, he⟩ | ⟨es, -, he⟩ | ⟨es, -, he⟩ | ⟨rom, q, f, es, -, -, he⟩ |
      ⟨rom, q, f, es, hin, hfit, -⟩ := step_cases s
    · exact he ▸ cycle_answers (s.setInputs es)
    · exact ⟨_, he⟩
    · exact ⟨_, he⟩
    · exact ⟨_, he⟩
    · exact ⟨_, he⟩
    · have hlen : rom.length ≤ 3584 := hshort rom q f (by rw [hin, List.head?_cons])
      have hlong : ¬ rom.length ≤ 3584 := by simpa [romFits] using hfit
      exact absurd hlen hlong

/-! ### A block stored at `I` (20_memory R63, R65; 43_address_memory R196) -/

section
variable {s : State} (hwf : s.mem.wf = true) (bs : List Byte)
include hwf

theorem memRead_storeAtI_inside (hlen : bs.length ≤ 4096) {k : Nat} (hk : k < bs.length) :
    (s.storeAtI bs).memRead (s.I.toNat + k) = bs[k] :=
  State.memRead_memWriteBytes_inside hwf (s.dataAddr 0) bs hlen hk

theorem memRead_storeAtI_outside {n : Nat} (hn : ∀ k, k < bs.length → (s.dataAddr 0 + k) % 4096 ≠ n % 4096) :
    (s.storeAtI bs).memRead n = s.memRead n :=
  State.memRead_memWriteBytes_outside hwf (s.dataAddr 0) bs hn

end

/-! ### The decimal store (43_address_memory R193) -/

/-- The bytes stored are three decimal digits whose value is the byte's. -/
theorem bcdDigits_eq (b : Byte) :
    ∃ h t u : Byte, bcdDigits b = [h, t, u] ∧ h.toNat * 100 + t.toNat * 10 + u.toNat = b.toNat ∧
      h.toNat ≤ 2 ∧ t.toNat ≤ 9 ∧ u.toNat ≤ 9 := by
  have hb := b.isLt
  refine ⟨_, _, _, rfl, ?_⟩
  simp only [BitVec.toNat_ofNat]
  omega

/-- Settles O41: each of the three reads gives one digit of `bcdDigits_eq`. -/
theorem bcdStoresTheDecimalDigits : Obligations.BcdStoresTheDecimalDigits := by
  unfold Obligations.BcdStoresTheDecimalDigits
  intro x s hwf
  obtain ⟨h, t, u, hdigits, hvalue, hh, ht, hu⟩ := bcdDigits_eq (s.readV x)
  have hexec : exec (.ldBVx x) s = .next (s.storeAtI [h, t, u]).advance := by rw [exec, execLdBVx, hdigits]
  have hread : ∀ k (hk : k < [h, t, u].length), (s.storeAtI [h, t, u]).memRead (s.I.toNat + k) = [h, t, u][k] :=
    fun k hk => memRead_storeAtI_inside hwf [h, t, u] (by simp) hk
  have hread0 : (s.storeAtI [h, t, u]).memRead s.I.toNat = h := hread 0 (by simp)
  have hread1 : (s.storeAtI [h, t, u]).memRead (s.I.toNat + 1) = t := hread 1 (by simp)
  have hread2 : (s.storeAtI [h, t, u]).memRead (s.I.toNat + 2) = u := hread 2 (by simp)
  refine ⟨_, hexec, ?_⟩
  simp only [State.memRead_advance, hread0, hread1, hread2]
  refine ⟨hvalue, hh, ht, hu, ?_, rfl, exec_frame hexec⟩
  rintro _ rfl n hn
  exact memRead_storeAtI_outside hwf [h, t, u] hn

/-! ### The register dump and the register load (43_address_memory R194, R195) -/

theorem regsUpTo_length (s : State) (x : RegIdx) : (s.regsUpTo x).length = x.val + 1 := by
  rw [State.regsUpTo, List.length_take, Vector.length_toList]
  omega

theorem getElem_regsUpTo (s : State) {x r : RegIdx} (hr : r.val < (s.regsUpTo x).length) :
    (s.regsUpTo x)[r.val] = s.readV r := by
  simp [State.regsUpTo, State.readV]

/-- After the registers up to `x` are stored at `I`, the byte at `I + r` is `Vr`. -/
theorem memRead_storeRegs {s : State} (hwf : s.mem.wf = true) {x r : RegIdx} (hr : r ≤ x) :
    (s.storeAtI (s.regsUpTo x)).memRead (s.I.toNat + r.val) = s.readV r := by
  have hlen := regsUpTo_length s x
  have hk : r.val < (s.regsUpTo x).length := hlen ▸ Nat.lt_succ_of_le hr
  rw [memRead_storeAtI_inside hwf _ (by omega) hk, getElem_regsUpTo]

/-- Settles O42: inside the block by `memRead_storeRegs`, outside it by the law of `storeAtI`. -/
theorem storeRegistersWritesExactlyTheirBytes : Obligations.StoreRegistersWritesExactlyTheirBytes := by
  unfold Obligations.StoreRegistersWritesExactlyTheirBytes
  intro x s hwf
  refine ⟨(s.storeAtI (s.regsUpTo x)).advance, rfl, fun r hr => memRead_storeRegs hwf hr, ?_, rfl,
    exec_frame (i := .stRegs x) rfl⟩
  rintro _ rfl n hn
  exact memRead_storeAtI_outside hwf _ (by rwa [regsUpTo_length])

/-- Settles O43: a register is loaded if its number is at most `x`, and kept otherwise. -/
theorem loadRegistersReadsTheirBytes : Obligations.LoadRegistersReadsTheirBytes := by
  unfold Obligations.LoadRegistersReadsTheirBytes
  intro x s
  obtain ⟨hregs, -⟩ := s.loadRegsBelow_eq (x.val + 1)
  have hPC : (s.loadRegsBelow (x.val + 1)).PC = s.PC := keptExcept_loadRegsBelow s _ .PC (by decide)
  refine ⟨(s.loadRegsBelow (x.val + 1)).advance, rfl, fun r hr => ?_, fun r hr => ?_, congrArg (· + 2#16) hPC,
    exec_frame (i := .ldRegs x) rfl⟩
  · have hlt : r.val < x.val + 1 := Nat.lt_succ_of_le hr
    rw [State.readV_advance, hregs, if_pos hlt]
    rfl
  · have hge : ¬ r.val < x.val + 1 := Nat.not_lt_of_le hr
    rw [State.readV_advance, hregs, if_neg hge]

/-! ### A store to the next instruction (20_memory R73) -/

/-- Settles O45: `Fx55` leaves `PC` at the old `I`, where it has stored `V0`, and `V1` after it. -/
theorem storeToTheNextInstructionIsFetched : Obligations.StoreToTheNextInstructionIsFetched := by
  unfold Obligations.StoreToTheNextInstructionIsFetched
  intro x s hwf hx hI
  refine ⟨(s.storeAtI (s.regsUpTo x)).advance, rfl, ?_⟩
  have hPC : (s.storeAtI (s.regsUpTo x)).advance.PC = s.I := hI.symm
  have hhigh : (s.storeAtI (s.regsUpTo x)).memRead s.I.toNat = s.readV 0 := memRead_storeRegs hwf (Fin.zero_le x)
  have hlow : (s.storeAtI (s.regsUpTo x)).memRead (s.I.toNat + 1) = s.readV 1 := memRead_storeRegs hwf (r := 1) hx
  beta_reduce
  rw [hPC, State.memReadWord, State.memRead_advance, State.memRead_advance, hhigh, hlow]

end Sys2Proof

/-! Proofs of the statements of 30_encoding: encoder and decoder are inverse to each other (R91, R92), the decoder agrees
with the match and mask table (R95), and the illegal words are those of R96. -/

namespace Sys2Proof

/-! ### Decoding an encoded instruction (30_encoding R91, R92) -/

/-- The decoder undoes the encoder: the fields of a word built by a format of R92 are the parts it was built from, and
the opcode with the literal digits leads the dispatch back to the instruction. -/
theorem decode_encode (i : Instr) : decode (encode i) = .ok i := by
  cases i with
  | cls | ret => rfl
  | jp | call | ldI | jpV0 | seImm | sneImm | ldImm | addImm | rnd | seReg | sneReg | drw => simp [encode, decode]
  | ldReg | orReg | andReg | xorReg | addReg | subReg | shr | subnReg | shl => simp [encode, decode, decode8]
  | skp | sknp => simp [encode, decode, decodeE]
  | ldVxDt | ldVxK | ldDtVx | ldStVx | addIVx | ldFVx | ldBVx | stRegs | ldRegs => simp [encode, decode, decodeF]

/-- Settles O1: `decode_encode`. -/
theorem decodeOfEncodeIsTheInstruction : Obligations.DecodeOfEncodeIsTheInstruction :=
  decode_encode

/-- Settles O2: `encode_of_decode`. -/
theorem encodeOfDecodeIsTheWord : Obligations.EncodeOfDecodeIsTheWord :=
  fun _ _ => encode_of_decode

/-- Settles O5: each word is evaluated. -/
theorem wordsWrittenOutDecode : Obligations.WordsWrittenOutDecode := by
  unfold Obligations.WordsWrittenOutDecode
  decide

/-! ### The match and mask table (30_encoding R95) -/

/-- No two rows of the table have one mnemonic. -/
theorem opcodeRows_mnemonic_nodup : (opcodeRows.map OpcodeRow.mnemonic).Nodup := by
  decide

/-- Settles O3: a row that accepts the word fixes what the dispatch tests; conversely the instruction's own row accepts
its word, and no other row has its mnemonic. -/
theorem decodeAgreesWithTheMatchMaskTable : Obligations.DecodeAgreesWithTheMatchMaskTable := by
  unfold Obligations.DecodeAgreesWithTheMatchMaskTable
  intro w r hr
  refine ⟨decode_of_row hr, ?_⟩
  rintro ⟨i, hi, hmnemonic⟩
  obtain ⟨r', hr', hmnemonic', haccepts⟩ := rowMatch i
  have hrow : r' = r := List.inj_on_of_nodup_map opcodeRows_mnemonic_nodup hr' hr (hmnemonic'.trans hmnemonic)
  rwa [← hrow, ← encode_of_decode hi]

/-! ### The illegal words (30_encoding R96) -/

theorem opcodeField_toNat (w : Word) : (opcodeField w).toNat = w.toNat / 0x1000 := by
  have := w.isLt
  simp [opcodeField, Nat.shiftRight_eq_div_pow]
  omega

theorem nField_toNat (w : Word) : (nField w).toNat = w.toNat % 0x10 := by
  simp [nField]

theorem kkField_toNat (w : Word) : (kkField w).toNat = w.toNat % 0x100 := by
  simp [kkField]

/-- The condition of the row of R96 that has this name. A whole word is never too few bytes. -/
def RejectedAs (w : Word) : DecodeReject → Prop
  | .illegal0 => w.toNat / 0x1000 = 0x0 ∧ w.toNat ≠ 0x00E0 ∧ w.toNat ≠ 0x00EE
  | .illegal5 => w.toNat / 0x1000 = 0x5 ∧ w.toNat % 0x10 ≠ 0
  | .illegal8 => w.toNat / 0x1000 = 0x8 ∧ w.toNat % 0x10 ∈ [0x8, 0x9, 0xA, 0xB, 0xC, 0xD, 0xF]
  | .illegal9 => w.toNat / 0x1000 = 0x9 ∧ w.toNat % 0x10 ≠ 0
  | .illegalE => w.toNat / 0x1000 = 0xE ∧ w.toNat % 0x100 ∉ [0x9E, 0xA1]
  | .illegalF => w.toNat / 0x1000 = 0xF ∧ w.toNat % 0x100 ∉ [0x07, 0x0A, 0x15, 0x18, 0x1E, 0x29, 0x33, 0x55, 0x65]
  | .truncated => False

section
variable {w : Word} {e : DecodeReject}

theorem decode0_eq_error_iff :
    decode0 w = .error e ↔ e = .illegal0 ∧ w.toNat ≠ 0x00E0 ∧ w.toNat ≠ 0x00EE := by
  simp only [decode0, ← BitVec.toNat_inj]
  split_ifs <;> simp_all [eq_comm]

/-- The second level of the families 5 and 9, where `n` must be 0. -/
theorem zeroNibble_eq_error_iff {i : Instr} {e' : DecodeReject} :
    (if nField w = 0#4 then Except.ok i else .error e') = .error e ↔ e = e' ∧ w.toNat % 0x10 ≠ 0 := by
  simp only [← BitVec.toNat_inj, nField_toNat]
  split_ifs <;> simp_all [eq_comm]

theorem decode8_eq_error_iff :
    decode8 w = .error e ↔ e = .illegal8 ∧ w.toNat % 0x10 ∈ [0x8, 0x9, 0xA, 0xB, 0xC, 0xD, 0xF] := by
  have hlt : w.toNat % 0x10 < 16 := Nat.mod_lt _ (by decide)
  rw [decode8, nField_toNat]
  generalize w.toNat % 0x10 = n at hlt
  interval_cases n <;> simp [eq_comm]

theorem decodeE_eq_error_iff : decodeE w = .error e ↔ e = .illegalE ∧ w.toNat % 0x100 ∉ [0x9E, 0xA1] := by
  simp only [decodeE, ← BitVec.toNat_inj, kkField_toNat]
  split_ifs <;> simp_all [eq_comm]

theorem decodeF_eq_error_iff :
    decodeF w = .error e ↔
      e = .illegalF ∧ w.toNat % 0x100 ∉ [0x07, 0x0A, 0x15, 0x18, 0x1E, 0x29, 0x33, 0x55, 0x65] := by
  simp only [decodeF, ← BitVec.toNat_inj, kkField_toNat]
  split_ifs <;> simp_all [eq_comm]

/-- The decoder rejects a word by the name of the row of R96 whose condition the word meets, and only then. -/
theorem decode_eq_error_iff : decode w = .error e ↔ RejectedAs w e := by
  rw [decode, opcodeField_toNat]
  split
  -- The case tags follow the arms of `decode`: `h_1` is family 0, `h_16` is family F.
  case h_1 hop => cases e <;> simp [RejectedAs, hop, decode0_eq_error_iff]
  case h_6 hop | h_10 hop =>
    refine zeroNibble_eq_error_iff.trans ?_
    cases e <;> simp [RejectedAs, hop]
  case h_9 hop => cases e <;> simp [RejectedAs, hop, decode8_eq_error_iff]
  case h_15 hop => cases e <;> simp [RejectedAs, hop, decodeE_eq_error_iff]
  case h_16 =>
    have hop : w.toNat / 0x1000 = 0xF := by
      have hlt := w.isLt
      simp only [imp_false] at *
      omega
    cases e <;> simp [RejectedAs, hop, decodeF_eq_error_iff]
  -- Every word of the other ten families decodes.
  all_goals
    next hop => cases e <;> simp [RejectedAs, hop]

end

/-- Settles O4: the six rows of R96 are the cases of `RejectedAs`. -/
theorem illegalWordsAreThoseOfR96 : Obligations.IllegalWordsAreThoseOfR96 := by
  unfold Obligations.IllegalWordsAreThoseOfR96
  intro w
  refine ⟨decode_eq_error_iff, decode_eq_error_iff, decode_eq_error_iff, decode_eq_error_iff, decode_eq_error_iff,
    decode_eq_error_iff, ?_⟩
  rintro _ herror rfl
  exact decode_eq_error_iff.mp herror

end Sys2Proof

/-! Proofs of the statements of 40_instruction_cycle: the cases of one cycle as steps (R120, R121, R127, R128), the next
`PC` (R126), the timers through a key wait (R127, R263), and the placed fetch word (R120, R122). -/

namespace Sys2Proof

open Sys2Proof.Machine Sys2Proof.Claims

/-! ### The next `PC` (40_instruction_cycle R123, R126) -/

/-- Settles O16: `exec_PC_of_not_transfer`. -/
theorem onlySkipsAndTransfersLeaveTheSequence : Obligations.OnlySkipsAndTransfersLeaveTheSequence :=
  fun _ _ _ => exec_PC_of_not_transfer

/-! ### The cases of a cycle, as steps (40_instruction_cycle R120) -/

/-- A step that finds a `CYCLE` next and a legal word at `PC` is the meaning of its instruction, whatever that answers. -/
theorem step_of_legal {s : State} {i : Instr} {rest : List Event} (hnext : CycleIsNext s rest)
    (hm : s.mode = .running) (hPC : s.PC.toNat < Config.memSize) (hdec : decode (s.memReadWord s.PC.toNat) = .ok i) :
    step s = exec i (s.setInputs rest) :=
  (step_of_cycleIsNext hnext).trans (cycle_of_legal (s := s.setInputs rest) hm hPC hdec)

/-- Settles O6: the low byte's address is brought below 4096 by the read itself. -/
theorem stepRunsTheFetchedInstruction : Obligations.StepRunsTheFetchedInstruction := by
  unfold Obligations.StepRunsTheFetchedInstruction
  intro s i rest hnext hm hPC hdec
  have hlow : s.memRead ((s.PC.toNat + 1) % 4096) = s.memRead (s.PC.toNat + 1) := s.memRead_wrap _
  rw [hlow] at hdec
  exact step_of_legal hnext hm hPC hdec

theorem decode_eq_error_of_illegal {w : Word} (h : legalWord w = false) : ∃ e, decode w = .error e := by
  cases hdec : decode w with
  | error e => exact ⟨e, rfl⟩
  | ok i => exact absurd ((legalWord_iff w).mpr ⟨i, hdec⟩) (by simp [h])

/-- Settles O7: the next state is that of `State.raise`, which has the record and the frame. -/
theorem illegalWordTakesDecodeFault : Obligations.IllegalWordTakesDecodeFault := by
  unfold Obligations.IllegalWordTakesDecodeFault
  intro s rest hnext hm hPC hillegal
  obtain ⟨e, hdec⟩ := decode_eq_error_of_illegal hillegal
  have hcycle := cycle_of_illegal (s := s.setInputs rest) hm hPC hdec
  exact ⟨_, (step_of_cycleIsNext hnext).trans hcycle, rfl, rfl, keptExcept_raise _ _ _⟩

/-- Settles O8: only the mode is set. -/
theorem endOfMemoryHaltsWithoutFetching : Obligations.EndOfMemoryHaltsWithoutFetching := by
  unfold Obligations.EndOfMemoryHaltsWithoutFetching
  intro s rest hnext hm hPC
  have hcycle := cycle_of_endOfMemory (s := s.setInputs rest) hm hPC
  exact ⟨_, (step_of_cycleIsNext hnext).trans hcycle, rfl, keptExcept_setMode _ _⟩

/-- A step that finds a `CYCLE` next in a machine that does not run only takes the event off the stream. -/
theorem step_cycle_of_not_running {s : State} {rest : List Event} (hnext : CycleIsNext s rest)
    (hm : s.mode ≠ .running) : step s = .next (s.setInputs rest) :=
  (step_of_cycleIsNext hnext).trans (cycle_of_not_running (s := s.setInputs rest) hm)

/-- Settles O9: a machine that awaits a key does not run. -/
theorem cycleWhileAwaitingKeyChangesNothing : Obligations.CycleWhileAwaitingKeyChangesNothing := by
  unfold Obligations.CycleWhileAwaitingKeyChangesNothing
  intro s rest r hnext hm
  exact step_cycle_of_not_running hnext (by simp [hm])

/-! ### The halted machine (40_instruction_cycle R128, 60_exceptions R258) -/

/-- Every event but `RESET` leaves a halted machine as it is. -/
theorem handleEvent_of_halted {s : State} {reason : HaltReason} (hm : s.mode = .halted reason) {e : Event}
    (he : ∀ rom q f, e ≠ .reset rom q f) : handleEvent e s = .next s := by
  have hh : s.isHalted = true := by simp [State.isHalted, hm]
  cases e with
  | cycle => exact cycle_of_not_running (by simp [hm])
  | key k p => simp [handleEvent, keyEvent, hh]
  | tick => simp [handleEvent, tick, hh]
  | quit => simp [handleEvent, quitEvent, hh]
  | reset rom q f => exact absurd rfl (he rom q f)

/-- Settles O10: with no event a `CYCLE` is next, and `handleEvent_of_halted` covers the others. -/
theorem haltedAbsorbsEveryEventButReset : Obligations.HaltedAbsorbsEveryEventButReset := by
  unfold Obligations.HaltedAbsorbsEveryEventButReset
  intro s reason hm hnoReset
  cases hin : s.inputs with
  | nil => exact step_cycle_of_not_running (.inr ⟨hin, rfl⟩) (by simp [hm])
  | cons e rest =>
    have he : ∀ rom q f, e ≠ .reset rom q f := by simpa [hin] using hnoReset
    exact (step_cons hin).trans (handleEvent_of_halted (s := s.setInputs rest) hm he)

/-! ### The timers while a key is awaited (40_instruction_cycle R127, 60_exceptions R263) -/

/-- One cycle or tick of a machine that awaits a key: each timer loses one in a tick, unless it is 0, and nothing in a
cycle. -/
theorem step_awaitingKey {s : State} {r : RegIdx} {e : Event} {rest : List Event} (hin : s.inputs = e :: rest)
    (hm : s.mode = .awaitingKey r) (he : e = .cycle ∨ e = .tick) :
    ∃ t, step s = .next t ∧ t.inputs = rest ∧ t.DT.toNat = s.DT.toNat - [e].count .tick ∧
      t.ST.toNat = s.ST.toNat - [e].count .tick ∧ KeptExcept [.DT, .ST, .inputs] s t := by
  have hrest : KeptExcept [.DT, .ST, .inputs] s (s.setInputs rest) := (keptExcept_setInputs s rest).mono (by decide)
  obtain rfl | rfl := he
  · exact ⟨s.setInputs rest, step_cycle_of_not_running (.inl hin) (by simp [hm]), rfl, rfl, rfl, hrest⟩
  · have htick := tick_of_not_halted (s := s.setInputs rest) (isHalted_of_awaitingKey hm)
    have hframe : KeptExcept [.DT, .ST, .inputs] s (tick (s.setInputs rest)) :=
      hrest.trans ((keptExcept_tick _).mono (by decide))
    rw [htick] at hframe
    exact ⟨_, (step_cons hin).trans (congrArg Host.Outcome.next htick), rfl, countDown_toNat s.DT, countDown_toNat s.ST,
      hframe⟩

/-- Settles O56, by induction on the events: none of them ends the wait. -/
theorem timersCountDownThroughTheWait : Obligations.TimersCountDownThroughTheWait := by
  unfold Obligations.TimersCountDownThroughTheWait
  intro es
  induction es with
  | nil => exact fun s r hin hm _ => ⟨s, rfl, hin, rfl, rfl, KeptExcept.refl _ s⟩
  | cons e es ih =>
    intro s r hin hm hes
    obtain ⟨he, hes⟩ := List.forall_mem_cons.mp hes
    obtain ⟨t, hstep, hint, hDT, hST, hst⟩ := step_awaitingKey hin hm he
    have hmt : t.mode = .awaitingKey r := (hst .mode (by decide)).trans hm
    obtain ⟨u, hrun, hnil, hDTu, hSTu, htu⟩ := ih t r hint hmt hes
    have hcount : (e :: es).count .tick = [e].count .tick + es.count .tick := List.count_append (l₁ := [e])
    refine ⟨u, (run_succ hstep _).trans hrun, hnil, ?_, ?_, hst.trans htu⟩
    · rw [hDTu, hDT, hcount, Nat.sub_sub]
    · rw [hSTu, hST, hcount, Nat.sub_sub]

/-! ### The placed fetch word (assumption 15) -/

theorem decodeTableWord_eq_some {nbits w : Nat} {i : Instr} (h : decodeTableWord nbits w = some i) :
    decode (tableWord nbits w) = .ok i := by
  rw [decodeTableWord, decodeBytes, wordOfBytes_high_low] at h
  cases hdec : decode (tableWord nbits w) with
  | ok j => simpa [hdec] using h
  | error e => simp [hdec] at h

section
variable (s : State) (nbits w : Nat)

theorem cycleIsNext_withFetchWord : CycleIsNext (s.withFetchWord nbits w) s.inputs := by
  have hin : (s.withFetchWord nbits w).inputs = cycleFirst s.inputs := rfl
  rw [CycleIsNext, hin]
  cases s.inputs with
  | nil => exact .inr ⟨rfl, rfl⟩
  | cons e es => exact .inl rfl

theorem withFetchWord_PC_toNat : (s.withFetchWord nbits w).PC.toNat = wrapAddr s.PC.toNat :=
  (BitVec.toNat_ofNat _ 16).trans (Nat.mod_eq_of_lt (Nat.lt_trans (wrapAddr_lt _) (by decide)))

/-- The word that is fetched is the word that was placed. -/
theorem memReadWord_withFetchWord (hwf : s.mem.wf = true) :
    (s.withFetchWord nbits w).memReadWord (wrapAddr s.PC.toNat) = tableWord nbits w := by
  have hread {k : Nat} (hk : k < 2) : (s.withFetchWord nbits w).memRead (wrapAddr s.PC.toNat + k) =
      [highByte (tableWord nbits w), lowByte (tableWord nbits w)][k] :=
    State.memRead_memWriteBytes_inside hwf (wrapAddr s.PC.toNat) [_, _] (show 2 ≤ Config.memSize by decide) hk
  have hhigh := hread (k := 0) (by decide)
  have hlow := hread (k := 1) (by decide)
  rw [Nat.add_zero] at hhigh
  rw [State.memReadWord, hhigh, hlow]
  exact wordOfBytes_high_low _

end

/-- Settles O60: the placed word is fetched in a running machine with a `CYCLE` next and `PC` below 4096. -/
theorem placedWordIsTheNextInstruction : Obligations.PlacedWordIsTheNextInstruction := by
  unfold Obligations.PlacedWordIsTheNextInstruction
  intro s w i hwf hw
  have hPC : (s.withFetchWord 16 w).PC.toNat = wrapAddr s.PC.toNat := withFetchWord_PC_toNat s 16 w
  refine step_of_legal (cycleIsNext_withFetchWord s 16 w) rfl (hPC ▸ wrapAddr_lt _) ?_
  rw [hPC, memReadWord_withFetchWord s 16 w hwf]
  exact decodeTableWord_eq_some hw

end Sys2Proof

/-! Proofs of the statements of 41_control_flow, and of the key skips: the jumps (R141, R147), the call and the return
(R140, R142) with their faults (R252, R253), and the conditions of the six skips (R143 to R146, R230, R231). -/

namespace Sys2Proof

open Sys2Proof.Machine Sys2Proof.Claims

/-! ### The literal digits of an encoded instruction (30_encoding R95) -/

theorem encodedAs_of_formatA {i : Instr} {op : Nibble} {nnn : Imm12} {m : Word} (he : encode i = formatA op nnn)
    (hm : formatA op 0#12 = m) : EncodedAs i m 0xF000#16 :=
  ⟨by rw [he, Laws.formatA_and_mask, hm], decode_encode i⟩

theorem encodedAs_of_formatXYN {i : Instr} {op : Nibble} {x y : RegIdx} {n : Nibble} {m : Word}
    (he : encode i = formatXYN op x y n) (hm : formatXYN op 0 0 n = m) : EncodedAs i m 0xF00F#16 :=
  ⟨by rw [he, Laws.formatXYN_and_mask, hm], decode_encode i⟩

/-! ### The jumps (41_control_flow R141, R147) -/

/-- Settles O23: the next state is that of `setPC`, and zero-extension keeps the value of the target. -/
theorem jumpAssignsPC : Obligations.JumpAssignsPC := by
  unfold Obligations.JumpAssignsPC
  intro nnn s
  exact ⟨encodedAs_of_formatA rfl rfl, _, rfl, addrOfImm_toNat nnn, keptExcept_setPC s _⟩

/-- Settles O30: a 12-bit and an 8-bit number have a sum below `2 ^ 16`, so that the word addition does not wrap. -/
theorem jumpWithOffsetKeepsTheFullSum : Obligations.JumpWithOffsetKeepsTheFullSum := by
  unfold Obligations.JumpWithOffsetKeepsTheFullSum
  intro nnn s
  have hsum : (addrOfImm nnn + wordOfByte (s.readV v0)).toNat = nnn.toNat + (s.readV v0).toNat := by
    have hnnn := nnn.isLt
    have hV0 := (s.readV v0).isLt
    rw [BitVec.toNat_add, addrOfImm_toNat, wordOfByte_toNat]
    omega
  exact ⟨_, rfl, hsum, keptExcept_setPC s _⟩

/-! ### The cases of the call and of the return as equations (41_control_flow R140, R142) -/

theorem exec_call_of_push (nnn : Imm12) {s u : State} (h : s.push s.pcNext = some u) :
    exec (.call nnn) s = .next (u.setPC (addrOfImm nnn)) := by
  rw [exec, execCall, h]

theorem exec_call_of_full (nnn : Imm12) {s : State} (h : s.SP.val = 16) :
    exec (.call nnn) s = .next (s.raise .stackOverflow (encode (.call nnn))) := by
  rw [exec, execCall, (State.push_eq_none s _).mpr h]

theorem exec_ret_of_pop {s u : State} {a : Word} (h : s.pop = some (a, u)) : exec .ret s = .next (u.setPC a) := by
  rw [exec, execRet, h]

theorem exec_ret_of_empty {s : State} (h : s.SP.val = 0) :
    exec .ret s = .next (s.raise .stackUnderflow (encode .ret)) := by
  rw [exec, execRet, (State.pop_eq_none s).mpr h]

/-! ### The call and the return -/

/-- Settles O24: the push writes the entry at `SP` and no other. -/
theorem callPushesTheReturnAddress : Obligations.CallPushesTheReturnAddress := by
  unfold Obligations.CallPushesTheReturnAddress
  intro nnn s hroom
  have hpush := State.push_of_room s s.pcNext hroom
  have htop : (s.stack.set s.SP.val s.pcNext).toList[s.SP.val]? = some (s.PC + 2#16) := by
    simp [hroom, State.pcNext]
  have hother (n : Fin 16) (hn : n.val ≠ s.SP.val) : (s.stack.set s.SP.val s.pcNext)[n.val] = s.stack[n.val] :=
    Vector.getElem_set_ne hroom n.isLt hn.symm
  exact ⟨_, exec_call_of_push nnn hpush, htop, hother, rfl, addrOfImm_toNat nnn,
    (keptExcept_push hpush).seq (keptExcept_setPC _ _)⟩

/-- Settles O25: the pop gives the entry below `SP` and lowers `SP`. -/
theorem returnPopsIntoPC : Obligations.ReturnPopsIntoPC := by
  unfold Obligations.ReturnPopsIntoPC
  intro s hoccupied
  have hpop := State.pop_of_occupied s hoccupied
  have htop : s.stack.toList[s.SP.val - 1]? = some s.stack[s.SP.val - 1] := by
    have hlt : s.SP.val - 1 < 16 := by omega
    simp [hlt]
  exact ⟨_, exec_ret_of_pop hpop, htop, rfl, (keptExcept_pop hpop).seq (keptExcept_setPC _ _)⟩

/-- Settles O27: the entry that the return takes is the one that the call pushed, and `SP` goes up by one and down by
one. -/
theorem callThenReturnComesBack : Obligations.CallThenReturnComesBack := by
  unfold Obligations.CallThenReturnComesBack
  intro nnn s hroom
  obtain ⟨t, hcall, hpushed, -, hSPt, -, hkeptCall⟩ := callPushesTheReturnAddress nnn s hroom
  obtain ⟨u, hret, hpopped, hSPu, hkeptRet⟩ := returnPopsIntoPC t (by omega)
  have hdepth : t.SP.val - 1 = s.SP.val := by omega
  rw [hdepth] at hpopped hSPu
  have hSP : u.SP = s.SP := Fin.ext hSPu
  have hkept : KeptExcept [.SP, .stack, .PC] s u := (hkeptCall.seq hkeptRet).mono (by simp)
  exact ⟨t, u, hcall, hret, Option.some.inj (hpopped.symm.trans hpushed), hSP, hkept.remove hSP⟩

/-- Settles O26: a full stack fails the push and an empty one the pop, and `State.raise` has the record and the frame. -/
theorem stackFaultsHaltAndWriteNothing : Obligations.StackFaultsHaltAndWriteNothing := by
  unfold Obligations.StackFaultsHaltAndWriteNothing
  constructor
  · intro nnn s hfull
    exact ⟨_, exec_call_of_full nnn hfull, rfl, rfl, keptExcept_raise s _ _⟩
  · intro s hempty
    exact ⟨_, exec_ret_of_empty hempty, rfl, rfl, keptExcept_raise s _ _⟩

/-! ### The skips (41_control_flow R148) -/

/-- `skipIf` on a test is the skip of R148 on any condition that the test decides. -/
theorem onlySkips_skipIf (s : State) {c : Bool} {cond : Prop} (h : c = true ↔ cond) :
    OnlySkips cond s (s.skipIf c) := by
  refine ⟨fun hcond => ?_, fun hcond => ?_, keptExcept_skipIf s c⟩
  · rw [State.skipIf_PC, if_pos (h.mpr hcond)]
    exact BitVec.add_assoc s.PC 2#16 2#16
  · rw [State.skipIf_PC, if_neg (mt h.mp hcond)]
    rfl

/-- Settles O29: each of the four skips is `skipIf` on the test of its condition. -/
theorem registerSkipsTestTheirCondition : Obligations.RegisterSkipsTestTheirCondition := by
  unfold Obligations.RegisterSkipsTestTheirCondition
  intro x y kk s
  refine ⟨⟨encodedAs_of_formatA rfl rfl, ?_⟩, ⟨encodedAs_of_formatA rfl rfl, ?_⟩, ⟨encodedAs_of_formatXYN rfl rfl, ?_⟩,
    ⟨encodedAs_of_formatXYN rfl rfl, ?_⟩⟩
  · exact ⟨_, rfl, onlySkips_skipIf s beq_iff_eq⟩
  · exact ⟨_, rfl, onlySkips_skipIf s bne_iff_ne⟩
  · exact ⟨_, rfl, onlySkips_skipIf s beq_iff_eq⟩
  · exact ⟨_, rfl, onlySkips_skipIf s bne_iff_ne⟩

/-- The key that a key skip tests has the low nibble of `Vx` as its number (45_keys_timers R236). -/
theorem keySelected_val (s : State) (x : RegIdx) : (s.keySelected x).val = (s.readV x).toNat % 16 := by
  simp [State.keySelected, regOfNibble, BitVec.extractLsb'_toNat]

/-- Settles O51: the two key skips are `skipIf` on the latch of the selected key and on its negation. -/
theorem keySkipsTestTheSelectedLatch : Obligations.KeySkipsTestTheSelectedLatch := by
  unfold Obligations.KeySkipsTestTheSelectedLatch
  intro x k s hk
  obtain rfl : s.keySelected x = k := Fin.ext ((keySelected_val s x).trans hk.symm)
  exact ⟨⟨_, rfl, onlySkips_skipIf s Iff.rfl⟩, ⟨_, rfl, onlySkips_skipIf s (Iff.of_eq (Bool.not_eq_true' _))⟩⟩

end Sys2Proof

/-! Proofs of the statements of 42_load_alu: the loads and the immediate add (R160 to R162), the logic operations (R163
to R165), and the operations that write a result and then a flag (R166 to R170, R172 to R174). -/

namespace Sys2Proof

open Sys2Proof.Machine Sys2Proof.Claims

/-! ### One register written (42_load_alu R160 to R165) -/

section
variable (s : State) (x : RegIdx) (v : Byte)

theorem readV_advance_writeV : (s.writeV x v).advance.readV x = v := State.readV_writeV_same s x v

theorem onlyWrites_writeV : OnlyWrites x v s (s.writeV x v).advance := by
  refine ⟨readV_advance_writeV s x v, fun r hr => ?_, rfl, (keptExcept_writeV s x v).seq (keptExcept_advance _)⟩
  have hne : x ≠ r := by simpa [eq_comm] using hr
  exact State.readV_writeV_other s v hne

/-- The same for a statement that reads the value back from the next state. -/
theorem onlyWrites_writeV_readV :
    OnlyWrites x ((s.writeV x v).advance.readV x) s (s.writeV x v).advance := by
  rw [readV_advance_writeV]
  exact onlyWrites_writeV s x v

end

/-- Settles O31: the register written holds `kk`, whichever register it is. -/
theorem loadImmediateWritesVx : Obligations.LoadImmediateWritesVx := by
  unfold Obligations.LoadImmediateWritesVx
  intro x kk s
  exact ⟨encodedAs_of_formatA rfl rfl, _, rfl, onlyWrites_writeV s x kk⟩

/-- Settles O32: the addition of bytes wraps modulo 256, and `Vx` alone is written. -/
theorem addImmediateWrapsWithoutFlag : Obligations.AddImmediateWrapsWithoutFlag := by
  unfold Obligations.AddImmediateWrapsWithoutFlag
  intro x kk s
  refine ⟨encodedAs_of_formatA rfl rfl, _, rfl, ?_, onlyWrites_writeV_readV s x _⟩
  rw [readV_advance_writeV]
  exact BitVec.toNat_add _ _

/-- Settles O33: each of the three logic operations on bytes is the one on bits, at every bit. -/
theorem moveAndLogicWriteVxBitwise : Obligations.MoveAndLogicWriteVxBitwise := by
  unfold Obligations.MoveAndLogicWriteVxBitwise
  intro x y s
  refine ⟨⟨_, rfl, onlyWrites_writeV s x _⟩, ⟨_, rfl, onlyWrites_writeV_readV s x _, fun b => ?_⟩,
    ⟨_, rfl, onlyWrites_writeV_readV s x _, fun b => ?_⟩, ⟨_, rfl, onlyWrites_writeV_readV s x _, fun b => ?_⟩⟩
  · rw [readV_advance_writeV, BitVec.getLsbD_or]
  · rw [readV_advance_writeV, BitVec.getLsbD_and]
  · rw [readV_advance_writeV, BitVec.getLsbD_xor]

/-! ### A result and then a flag (42_load_alu R172) -/

/-- `writeResultFlag` writes a result and a flag in the order of R172, for any number that the result has as its value
and any condition that the flag decides. -/
theorem onlyWritesResultFlag_writeResultFlag (s : State) (x : RegIdx) {res : Byte} {f : Bool} {n : Nat} {flag : Prop}
    (hres : res.toNat = n) (hflag : f = true ↔ flag) :
    OnlyWritesResultFlag x n flag s (s.writeResultFlag x res f).advance := by
  have hread (q : RegIdx) : (s.writeResultFlag x res f).advance.readV q =
      if q = vF then flagByte f else if q = x then res else s.readV q := State.readV_writeResultFlag s x q res f
  have hvF : ((s.writeResultFlag x res f).advance.readV vF).toNat = if f then 1 else 0 := by
    rw [hread, if_pos rfl, flagByte_toNat]
  refine ⟨fun hx => ?_, fun h => ?_, fun h => ?_, fun r hr => ?_, rfl,
    (keptExcept_writeResultFlag s x res f).seq (keptExcept_advance _)⟩
  · rw [hread, if_neg hx, if_pos rfl, hres]
  · rw [hvF, if_pos (hflag.mpr h)]
  · rw [hvF, if_neg (mt hflag.mp h)]
  · obtain ⟨hx, hF⟩ : r ≠ x ∧ r ≠ vF := by simpa using hr
    rw [hread, if_neg hF, if_neg hx]

/-! ### Addition and subtraction (42_load_alu R166, R167, R169, R173) -/

theorem carryFlag_iff (a b : Byte) : carryFlag a b = true ↔ a.toNat + b.toNat > 255 := decide_eq_true_iff

theorem notBorrowFlag_iff (a b : Byte) : notBorrowFlag a b = true ↔ a.toNat ≥ b.toNat := decide_eq_true_iff

/-- The difference of two bytes modulo 256: 256 is added exactly when there is a borrow. -/
theorem byte_sub_toNat (a b : Byte) :
    (a - b).toNat = if a.toNat ≥ b.toNat then a.toNat - b.toNat else a.toNat + 256 - b.toNat := by
  have ha := a.isLt
  have hb := b.isLt
  rw [BitVec.toNat_sub]
  split <;> omega

/-- Settles O34: the addition of bytes is modulo 256, and `carryFlag` decides the carry. -/
theorem addSetsSumAndCarry : Obligations.AddSetsSumAndCarry := by
  unfold Obligations.AddSetsSumAndCarry
  intro x y s
  exact ⟨_, rfl, onlyWritesResultFlag_writeResultFlag s x (BitVec.toNat_add _ _) (carryFlag_iff _ _)⟩

/-- Settles O35: `byte_sub_toNat` for the two orders of the operands. -/
theorem subtractionsSetDifferenceAndNotBorrow : Obligations.SubtractionsSetDifferenceAndNotBorrow := by
  unfold Obligations.SubtractionsSetDifferenceAndNotBorrow
  intro x y s
  exact ⟨⟨_, rfl, onlyWritesResultFlag_writeResultFlag s x (byte_sub_toNat _ _) (notBorrowFlag_iff _ _)⟩,
    ⟨_, rfl, onlyWritesResultFlag_writeResultFlag s x (byte_sub_toNat _ _) (notBorrowFlag_iff _ _)⟩⟩

/-! ### The shifts (42_load_alu R168, R170, R174) -/

theorem shiftRightFlag_iff (v : Byte) : shiftRightFlag v = true ↔ v.toNat % 2 = 1 := by
  rw [shiftRightFlag, BitVec.getLsbD, Nat.testBit_zero, decide_eq_true_iff]

/-- Bit 7 is the sign bit of a byte. -/
theorem shiftLeftFlag_iff (v : Byte) : shiftLeftFlag v = true ↔ v.toNat ≥ 128 := by
  have hmsb : shiftLeftFlag v = v.msb := v.msb_eq_getLsbD_last.symm
  rw [hmsb, BitVec.msb_eq_decide, decide_eq_true_iff]

theorem byte_shiftRight_one_toNat (v : Byte) : (v >>> 1).toNat = v.toNat / 2 := by
  rw [BitVec.toNat_ushiftRight, Nat.shiftRight_one]

theorem byte_shiftLeft_one_toNat (v : Byte) : (v <<< 1).toNat = v.toNat * 2 % 256 := by
  rw [BitVec.toNat_shiftLeft, Nat.shiftLeft_eq]

/-- The shift operand is the register that `Q_SHIFT_SRC` selects. -/
theorem shiftOperand_eq {s : State} {x y : RegIdx} {v : Byte}
    (h : s.quirks.shiftSrc = .vx ∧ v = s.readV x ∨ s.quirks.shiftSrc = .vy ∧ v = s.readV y) :
    s.shiftOperand x y = v := by
  obtain ⟨hq, rfl⟩ | ⟨hq, rfl⟩ := h <;> rw [State.shiftOperand, hq]

/-- Settles O36: both shifts read the operand that the quirk selects. -/
theorem shiftsMoveOneBitIntoVF : Obligations.ShiftsMoveOneBitIntoVF := by
  unfold Obligations.ShiftsMoveOneBitIntoVF
  intro x y s v hv
  obtain rfl : s.shiftOperand x y = v := shiftOperand_eq hv
  exact ⟨⟨_, rfl, onlyWritesResultFlag_writeResultFlag s x (byte_shiftRight_one_toNat _) (shiftRightFlag_iff _)⟩,
    ⟨_, rfl, onlyWritesResultFlag_writeResultFlag s x (byte_shiftLeft_one_toNat _) (shiftLeftFlag_iff _)⟩⟩

end Sys2Proof

/-! Proofs of the statements of 43_address_memory: the address register (R190 to R192), and the round trip of the registers
through memory (R194, R195). -/

namespace Sys2Proof

open Sys2Proof.Machine Sys2Proof.Claims

/-! ### Registers through memory (43_address_memory R194, R195) -/

/-- Settles O44: the byte at `I + r` is `Vr` after the store (O42), and the load puts it back into `Vr` (O43); both
addresses are the same, because the store keeps `I`. -/
theorem storeThenLoadRestoresTheRegisters : Obligations.StoreThenLoadRestoresTheRegisters := by
  unfold Obligations.StoreThenLoadRestoresTheRegisters
  intro x s t t' u hwf hstore hI hmem hload r hr
  obtain ⟨_, ht, hstored, -⟩ := storeRegistersWritesExactlyTheirBytes x s hwf
  obtain ⟨_, hu, hloaded, -⟩ := loadRegistersReadsTheirBytes x t'
  obtain rfl := Host.Outcome.next.inj (hstore.symm.trans ht)
  obtain rfl := Host.Outcome.next.inj (hload.symm.trans hu)
  have hI' : t'.I = s.I := hI.trans (exec_frame hstore .I (by simp [partsWritten]))
  calc u.readV r = t'.memRead (t'.I.toNat + r.val) := hloaded r hr
    _ = t.memRead (s.I.toNat + r.val) := by rw [hI', State.memRead, State.memRead, hmem]
    _ = s.readV r := hstored r hr

/-! ### The sum of `I` and a register (43_address_memory R191) -/

theorem indexSum_toNat (i : Word) (b : Byte) : (indexSum i b).toNat = (i.toNat + b.toNat) % 4096 := by
  rw [indexSum, BitVec.toNat_ofNat]
  exact Nat.mod_eq_of_lt ((Nat.mod_lt _ (by decide)).trans (by decide))

theorem flagByte_indexOverflowFlag_toNat (i : Word) (b : Byte) :
    (flagByte (indexOverflowFlag i b)).toNat = if i.toNat + b.toNat > 0xFFF then 1 else 0 := by
  simp only [flagByte_toNat, indexOverflowFlag, decide_eq_true_iff]

section
variable {s : State} (x : RegIdx)

theorem exec_addIVx_of_fx1eVf (hq : s.quirks.fx1eVf = true) :
    exec (.addIVx x) s =
      .next ((s.setI (indexSum s.I (s.readV x))).writeFlag (indexOverflowFlag s.I (s.readV x))).advance := by
  rw [exec, execAddIVx, if_pos hq]

theorem exec_addIVx_of_not_fx1eVf (hq : s.quirks.fx1eVf = false) :
    exec (.addIVx x) s = .next (s.setI (indexSum s.I (s.readV x))).advance := by
  rw [exec, execAddIVx, if_neg (Bool.eq_false_iff.mp hq)]

end

/-- Settles O39: under either setting `I` receives `indexSum`; with the quirk the flag is written over that state, and
without it no register is. -/
theorem addToIndexIsModulo4096 : Obligations.AddToIndexIsModulo4096 := by
  unfold Obligations.AddToIndexIsModulo4096
  intro x s
  have hsum := indexSum_toNat s.I (s.readV x)
  cases hq : s.quirks.fx1eVf with
  | true =>
    have hexec := exec_addIVx_of_fx1eVf x hq
    refine ⟨_, hexec, hsum, fun _ => ?_, nofun, fun r hr => ?_, rfl, exec_frame hexec⟩
    · rw [State.readV_advance, State.writeFlag, State.readV_writeV_same, flagByte_indexOverflowFlag_toNat]
    · rw [State.readV_advance, readV_writeFlag_other _ _ (List.ne_of_not_mem_cons hr), State.readV_setI]
  | false =>
    have hexec := exec_addIVx_of_not_fx1eVf x hq
    exact ⟨_, hexec, hsum, nofun, fun _ => rfl, fun _ _ => rfl, rfl, exec_frame hexec⟩

/-! ### The address register loaded (43_address_memory R190, R192) -/

/-- Settles O38: zero-extension keeps all 12 bits of the immediate. -/
theorem loadIndexKeepsTwelveBits : Obligations.LoadIndexKeepsTwelveBits := by
  unfold Obligations.LoadIndexKeepsTwelveBits
  intro nnn s
  exact ⟨encodedAs_of_formatA rfl rfl, _, rfl, addrOfImm_toNat nnn, rfl, exec_frame (i := .ldI nnn) rfl⟩

/-- Settles O40: `0x050 + 5 * 255` is below `2 ^ 16`, so that the word arithmetic of `glyphAddr` does not wrap. -/
theorem glyphAddressUsesTheWholeRegister : Obligations.GlyphAddressUsesTheWholeRegister := by
  unfold Obligations.GlyphAddressUsesTheWholeRegister
  intro x s
  exact ⟨_, rfl, glyphAddr_toNat (s.readV x), rfl, exec_frame (i := .ldFVx x) rfl⟩

end Sys2Proof

/-! Proofs of the statements of 44_display: the clear (R210), and the sprite compositor (R211 to R214), whose two loops
turn over one set of cells after another. -/

namespace Sys2Proof

open Sys2Proof.Machine Sys2Proof.Claims

/-! ### The clear (44_display R210) -/

/-- Settles O46: every cell of the blank framebuffer is 0, and the access matrix gives `00E0` the framebuffer and `PC`
only. -/
theorem clearBlanksEveryCell : Obligations.ClearBlanksEveryCell := by
  unfold Obligations.ClearBlanksEveryCell
  exact ⟨⟨by decide, decode_encode .cls⟩, fun s => ⟨_, rfl, Framebuffer.cell_blank, rfl, exec_frame (i := .cls) rfl⟩⟩

/-! ### A set of cells turned over (44_display R213) -/

/-- From one point of the compositor's run to another exactly the cells of `P` have been turned over, and a collision has
been noted in between exactly if one of them was on before. -/
structure TurnsOver (P : Fin 32 → Fin 64 → Prop) (acc acc' : Framebuffer × Bool) : Prop where
  cell : ∀ yy xx, acc'.1.cell yy xx ≠ acc.1.cell yy xx ↔ P yy xx
  flag : acc'.2 = true ↔ acc.2 = true ∨ ∃ yy xx, P yy xx ∧ acc.1.cell yy xx = true

section
variable {P Q : Fin 32 → Fin 64 → Prop} {a b c : Framebuffer × Bool}

theorem TurnsOver.of_iff (h : TurnsOver P a b) (hPQ : ∀ yy xx, P yy xx ↔ Q yy xx) : TurnsOver Q a b := by
  obtain rfl : P = Q := funext₂ fun yy xx => propext (hPQ yy xx)
  exact h

theorem turnsOver_nothing (hP : ∀ yy xx, ¬ P yy xx) (a : Framebuffer × Bool) : TurnsOver P a a where
  cell yy xx := by simp [hP]
  flag := by simp [hP]

theorem TurnsOver.cell_eq (h : TurnsOver P a b) {yy : Fin 32} {xx : Fin 64} (hP : ¬ P yy xx) :
    b.1.cell yy xx = a.1.cell yy xx := not_not.mp (mt (h.cell yy xx).mp hP)

/-- Two sets without a common cell, turned over one after the other: the cells of the second are as they were before the
first. -/
theorem TurnsOver.seq (h : TurnsOver P a b) (h' : TurnsOver Q b c) (hdisj : ∀ yy xx, P yy xx → ¬ Q yy xx) :
    TurnsOver (fun yy xx => P yy xx ∨ Q yy xx) a c where
  cell yy xx := by
    by_cases hP : P yy xx
    · rw [h'.cell_eq (hdisj yy xx hP), h.cell]
      exact (or_iff_left (hdisj yy xx hP)).symm
    · rw [← h.cell_eq hP, h'.cell]
      exact (or_iff_right hP).symm
  flag := by
    have hsecond : (∃ yy xx, Q yy xx ∧ b.1.cell yy xx = true) ↔ ∃ yy xx, Q yy xx ∧ a.1.cell yy xx = true :=
      exists₂_congr fun yy xx => and_congr_right fun hQ => by rw [h.cell_eq fun hP => hdisj yy xx hP hQ]
    rw [h'.flag, h.flag, hsecond, or_assoc]
    simp only [← exists_or, or_and_right]

/-- A set of cells turned over twice is as it was, whatever collisions were noted. -/
theorem TurnsOver.twice {f : Framebuffer} {p q : Bool} (h : TurnsOver P a (f, p)) (h' : TurnsOver P (f, q) c)
    (yy : Fin 32) (xx : Fin 64) : c.1.cell yy xx = a.1.cell yy xx := by
  by_cases hP : P yy xx
  · rw [Bool.eq_not.mpr ((h'.cell yy xx).mpr hP), Bool.eq_not.mpr ((h.cell yy xx).mpr hP), Bool.not_not]
  · rw [h'.cell_eq hP, h.cell_eq hP]

/-- A loop whose passes turn over sets that have no cell in common turns over their union. -/
theorem turnsOver_loop {P : Nat → Fin 32 → Fin 64 → Prop} {f : Nat → Framebuffer × Bool} {N : Nat}
    (hstep : ∀ k < N, TurnsOver (P k) (f k) (f (k + 1)))
    (hdisj : ∀ i j yy xx, i < j → j < N → P i yy xx → ¬ P j yy xx) {k : Nat} (hk : k ≤ N) :
    TurnsOver (fun yy xx => ∃ i < k, P i yy xx) (f 0) (f k) := by
  induction k with
  | zero => exact turnsOver_nothing (by simp) (f 0)
  | succ k ih =>
    refine ((ih (by omega)).seq (hstep k hk) fun yy xx ⟨i, hi, hPi⟩ => hdisj i k yy xx hi hk hPi).of_iff fun yy xx => ?_
    exact Nat.exists_lt_succ_right.symm

end

/-! ### The compositor's loops (44_display R211, R212, R214) -/

/-- Bit `c` of a sprite row, most significant first, is 1 and lands on a cell, when the sprite's row lands on `row`. -/
def BitLands (row : Option (Fin 32)) (b : Byte) (vx c : Nat) (yy : Fin 32) (xx : Fin 64) : Prop :=
  row = some yy ∧ spriteColumn vx c = xx ∧ b.getLsbD (7 - c) = true

theorem turnsOver_drawBit (y : Fin 32) (x : Fin 64) (acc : Framebuffer × Bool) :
    TurnsOver (fun yy xx => y = yy ∧ x = xx) acc (drawBit y x acc) where
  cell yy xx := by
    rw [drawBit, Framebuffer.cell_toggle]
    cases acc.1.cell yy xx <;> simp
  flag := by simp [drawBit]

/-- Two columns of a sprite that land on the same cell are the same, since a sprite is less than 64 columns wide. -/
theorem spriteColumn_inj {vx i j : Nat} (hi : i < 64) (hj : j < 64) (h : spriteColumn vx i = spriteColumn vx j) :
    i = j := by
  have hmod : (vx + i) % 64 = (vx + j) % 64 := congrArg Fin.val h
  omega

theorem spriteRow_eq_some_iff {wrap : Bool} {vy r : Nat} {yy : Fin 32} :
    spriteRow wrap vy r = some yy ↔ if wrap then (vy + r) % 32 = yy.val else vy + r = yy.val := by
  have hyy := yy.isLt
  by_cases h : vy + r < 32
  · rw [spriteRow, dif_pos h, Option.some_inj, Fin.ext_iff]
    change vy + r = yy.val ↔ _
    split <;> omega
  · rw [spriteRow, dif_neg h]
    cases wrap with
    | true => simp only [if_true, Option.some_inj, Fin.ext_iff]
    | false => exact iff_of_false nofun (by simp only [Bool.false_eq_true, if_false]; omega)

/-- Two rows of a sprite that land on the same row of cells are the same, since a sprite is less than 32 rows high. -/
theorem spriteRow_inj {wrap : Bool} {vy i j : Nat} {yy : Fin 32} (hi : i < 32) (hj : j < 32)
    (h : spriteRow wrap vy i = some yy) (h' : spriteRow wrap vy j = some yy) : i = j := by
  rw [spriteRow_eq_some_iff] at h h'
  cases wrap with
  | true => simp only [if_true] at h h'; omega
  | false => simp only [Bool.false_eq_true, if_false] at h h'; omega

/-- A row of a sprite turns over the cells that its bits land on. -/
theorem turnsOver_drawColumns (b : Byte) (vx : Nat) (y : Fin 32) (acc : Framebuffer × Bool) :
    TurnsOver (fun yy xx => ∃ c < 8, BitLands (some y) b vx c yy xx) acc (drawColumns b vx y acc 8) := by
  refine turnsOver_loop (f := drawColumns b vx y acc) (fun c _ => ?_) ?_ le_rfl
  · simp only [drawColumns]
    by_cases hbit : b.getLsbD (7 - c) = true
    · rw [if_pos hbit]
      exact (turnsOver_drawBit y _ _).of_iff fun yy xx => by simp [BitLands, hbit]
    · rw [if_neg hbit]
      exact turnsOver_nothing (fun _ _ ⟨_, _, hone⟩ => hbit hone) _
  · intro i j yy xx hij hj ⟨_, hi, _⟩ ⟨_, hj', _⟩
    have := spriteColumn_inj (by omega) (by omega) (hi.trans hj'.symm)
    omega

theorem spriteCovers_iff (s : State) (vx vy n : Nat) (yy : Fin 32) (xx : Fin 64) :
    SpriteCovers s vx vy n yy xx ↔
      ∃ r < n, ∃ c < 8, BitLands (spriteRow s.quirks.drawVwrap vy r) (s.readAtI r) vx c yy xx := by
  simp only [SpriteCovers, BitLands, spriteRow_eq_some_iff, spriteColumn, Fin.ext_iff, State.readAtI, State.dataAddr]
  constructor
  · rintro ⟨r, c, hr, hc, hland⟩
    exact ⟨r, hr, c, hc, hland⟩
  · rintro ⟨r, hr, c, hc, hland⟩
    exact ⟨r, c, hr, hc, hland⟩

/-- The compositor turns over the cells that the sprite covers; a row that is clipped covers none. -/
theorem turnsOver_drawRows (s : State) (vx vy : Nat) {n : Nat} (hn : n ≤ 32) :
    TurnsOver (SpriteCovers s vx vy n) (s.fb, false) (s.drawRows vx vy n) := by
  refine (turnsOver_loop (f := s.drawRows vx vy) (N := 32) (fun r _ => ?_) ?_ hn).of_iff fun yy xx =>
    (spriteCovers_iff s vx vy n yy xx).symm
  · simp only [State.drawRows]
    cases hrow : spriteRow s.quirks.drawVwrap vy r with
    | some y => exact turnsOver_drawColumns _ vx y _
    | none => exact turnsOver_nothing (by simp [BitLands]) _
  · rintro i j yy xx hij hj ⟨_, _, hi, _⟩ ⟨_, _, hj', _⟩
    have := spriteRow_inj (by omega) hj hi hj'
    omega

/-! ### The sprite instruction (44_display R211) -/

/-- `Dxyn` stores what the compositor's loops give: its framebuffer, and its collision in `VF`. -/
theorem turnsOver_exec_drw {x y : RegIdx} {n : Nibble} {s t : State} (h : exec (.drw x y n) s = .next t) :
    ∃ collision, t.readV vF = flagByte collision ∧
      TurnsOver (SpriteCovers s (s.readV x).toNat (s.readV y).toNat n.toNat) (s.fb, false) (t.fb, collision) := by
  cases h
  have hn : n.toNat ≤ 32 := by have := n.isLt; omega
  exact ⟨_, State.readV_writeV_same _ vF _, turnsOver_drawRows s _ _ hn⟩

/-- Settles O47: the cells are those of `turnsOver_drawRows`, and the rest is the access matrix's row of `Dxyn`. -/
theorem drawTogglesExactlyTheCoveredCells : Obligations.DrawTogglesExactlyTheCoveredCells := by
  unfold Obligations.DrawTogglesExactlyTheCoveredCells
  intro x y n s
  obtain ⟨t, h⟩ := exec_answers (.drw x y n) s
  obtain ⟨_, -, hturns⟩ := turnsOver_exec_drw h
  refine ⟨t, h, hturns.cell, exec_regs h, ?_, exec_frame h⟩
  cases h
  rfl

/-- Settles O48: the run of the compositor begins without a collision, so that the flag says what it met. -/
theorem drawFlagsACollision : Obligations.DrawFlagsACollision := by
  unfold Obligations.DrawFlagsACollision
  intro x y n s
  obtain ⟨t, h⟩ := exec_answers (.drw x y n) s
  obtain ⟨collision, hvF, hturns⟩ := turnsOver_exec_drw h
  have hflag := hturns.flag
  simp only [Bool.false_eq_true, false_or] at hflag
  refine ⟨t, h, fun hmet => ?_, fun hmet => ?_⟩
  · rw [hvF, hflag.mpr hmet]; rfl
  · rw [hvF, Bool.eq_false_iff.mpr (mt hflag.mp hmet)]; rfl

/-- `Dxyn` changes nothing that decides where a sprite lands but the registers of its origin. -/
theorem spriteCovers_exec_drw {x y : RegIdx} {n : Nibble} {s t : State} (h : exec (.drw x y n) s = .next t)
    (vx vy k : Nat) : SpriteCovers t vx vy k = SpriteCovers s vx vy k := by
  have hframe := exec_frame h
  have hI : t.I = s.I := hframe .I (by simp [partsWritten])
  have hmem : ∀ a, t.memRead a = s.memRead a := hframe .mem (by simp [partsWritten])
  have hquirks : t.quirks = s.quirks := hframe .quirks (by simp [partsWritten])
  funext yy xx
  simp only [SpriteCovers, hI, hmem, hquirks]

/-- Settles O49: both draws turn over the same cells, so that the second undoes the first, and it meets a cell that is on
where the first turned one on. -/
theorem drawingTwiceRestoresTheFramebuffer : Obligations.DrawingTwiceRestoresTheFramebuffer := by
  unfold Obligations.DrawingTwiceRestoresTheFramebuffer
  intro x y n s t u hst htu hx hy
  obtain ⟨_, -, hfirst⟩ := turnsOver_exec_drw hst
  obtain ⟨collision, hvF, hsecond⟩ := turnsOver_exec_drw htu
  rw [spriteCovers_exec_drw hst, hx, hy] at hsecond
  have hflag := hsecond.flag
  simp only [Bool.false_eq_true, false_or] at hflag
  have hone : (u.readV vF).toNat = 1 ↔ collision = true := by simp [hvF, flagByte_toNat]
  refine ⟨hfirst.twice hsecond, ?_⟩
  rw [hone, hflag]
  refine exists₂_congr fun yy xx => and_congr_left fun hon => ?_
  rw [← hfirst.cell, hon]
  exact ne_comm.trans (Iff.of_eq (Bool.not_eq_true _))

end Sys2Proof

/-! Proofs of the statements of 45_keys_timers: the wait for a key (R232), and the timer moves with the audio output
(R233 to R235, R264). -/

namespace Sys2Proof

open Sys2Proof.Machine Sys2Proof.Claims

/-! ### The wait for a key (45_keys_timers R232) -/

/-- Settles O52: the mode and `PC` are set as R232 says, and the access matrix gives `Fx0A` no other part. -/
theorem waitForKeyEntersTheWait : Obligations.WaitForKeyEntersTheWait := by
  unfold Obligations.WaitForKeyEntersTheWait
  intro x s
  exact ⟨_, rfl, rfl, rfl, exec_frame (i := .ldVxK x) rfl⟩

/-! ### The timer moves (45_keys_timers R233 to R235, 60_exceptions R264) -/

/-- The audio output is on as long as `ST` is not 0 (R264). -/
theorem audioActive_iff (s : State) : s.audioActive = true ↔ s.ST.toNat ≠ 0 := by
  rw [State.audioActive, bne_iff_ne]
  exact BitVec.toNat_ne_iff_ne.symm

/-- Settles O54: `Fx07` is a write of one register; `Fx15` and `Fx18` set their timer to the whole byte, the access matrix
gives them no other part but `PC`, and `audioActive_iff` reads the new `ST`. -/
theorem timerMovesCopyTheWholeByte : Obligations.TimerMovesCopyTheWholeByte := by
  unfold Obligations.TimerMovesCopyTheWholeByte
  intro x s
  refine ⟨⟨_, rfl, onlyWrites_writeV s x s.DT⟩, ?_, ?_⟩
  · exact ⟨_, rfl, rfl, rfl, exec_frame (i := .ldDtVx x) rfl⟩
  · exact ⟨_, rfl, rfl, audioActive_iff _, rfl, exec_frame (i := .ldStVx x) rfl⟩

end Sys2Proof

/-! Proofs of the statements of 60_exceptions: a key event (R266, R267), a tick (R263) and `QUIT` (R272) in a machine that
is not halted (R260). -/

namespace Sys2Proof

open Sys2Proof.Machine Sys2Proof.Claims

/-! ### The key event (60_exceptions R266, R267) -/

/-- A press of a key that was up ends a key wait. -/
theorem keyEvent_of_awaited_press {s : State} {k : KeyIdx} {r : RegIdx} (hm : s.mode = .awaitingKey r)
    (hup : s.keyDown k = false) :
    keyEvent k true s = ((s.setKey k true).writeV r (byteOfKey k)).setMode .running := by
  simp [keyEvent, endWait, isHalted_of_awaitingKey hm, hup, hm]

/-- Any other key event writes the latch and does no more. -/
theorem keyEvent_of_no_awaited_press {s : State} {k : KeyIdx} {p : Bool} (hh : s.isHalted = false)
    (h : s.mode = .running ∨ p = false ∨ s.keyDown k = true) : keyEvent k p s = s.setKey k p := by
  obtain hm | rfl | hdown := h
  · simp [keyEvent, endWait, hh, hm]
  · simp [keyEvent, hh]
  · simp [keyEvent, hh, hdown]

/-- Settles O53: `keyDown_keyEvent` gives the latches; the event that ends the wait and every other one have their
equations, and `keyFrame_keyEvent` the frame of the first. -/
theorem keyEventsLatchAndCompleteTheWait : Obligations.KeyEventsLatchAndCompleteTheWait := by
  unfold Obligations.KeyEventsLatchAndCompleteTheWait
  intro s k p rest hin hh
  let s₀ := s.setInputs rest
  have hh₀ : s₀.isHalted = false := hh
  have hs₀ : KeptExcept [.inputs] s s₀ := keptExcept_setInputs s rest
  refine ⟨keyEvent k p s₀, step_cons hin, keyEvent_inputs k p s₀, ?_, fun j hj => ?_, fun r hm hp hup => ?_,
    fun hother => ?_⟩
  · exact (keyDown_keyEvent hh₀ k k p).trans (if_pos rfl)
  · exact (keyDown_keyEvent hh₀ k j p).trans (if_neg hj.symm)
  · obtain ⟨-, hregs, hkept⟩ := (keyFrame_keyEvent k p s₀).ofAwaiting r hm
    subst hp
    have hend := keyEvent_of_awaited_press (s := s₀) hm hup
    refine ⟨by rw [hend]; rfl, ?_, hregs, (hs₀.mono (by decide)).trans hkept⟩
    rw [hend, State.readV_setMode, State.readV_writeV_same, byteOfKey_toNat]
  · rw [keyEvent_of_no_awaited_press hh₀ hother]
    exact (hs₀.mono (by decide)).trans ((keptExcept_setKey s₀ k p).mono (by decide))

/-! ### The tick (60_exceptions R263) -/

/-- Settles O55: `countDown` takes one from each timer that is not 0, and `keptExcept_tick` is the frame. -/
theorem tickCountsBothTimersDown : Obligations.TickCountsBothTimersDown := by
  unfold Obligations.TickCountsBothTimersDown
  intro s rest hin hh
  let s₀ := s.setInputs rest
  have htick : tick s₀ = (s₀.setDT (countDown s.DT)).setST (countDown s.ST) := tick_of_not_halted hh
  have hframe : KeptExcept [.DT, .ST, .inputs] s (tick s₀) :=
    ((keptExcept_setInputs s rest).mono (by decide)).trans ((keptExcept_tick s₀).mono (by decide))
  refine ⟨tick s₀, step_cons hin, keptExcept_tick s₀ .inputs (by decide), ?_, ?_, hframe⟩
  · rw [htick, State.setST_DT, State.setDT_DT, countDown_toNat]
  · rw [htick, State.setST_ST, countDown_toNat]

/-! ### `QUIT` (60_exceptions R272) -/

/-- All that `QUIT` does to a machine that is not halted. -/
theorem quitEvent_of_not_halted {s : State} (h : s.isHalted = false) : quitEvent s = s.setMode (.halted .quit) := by
  simp [quitEvent, h]

/-- Settles O58: the step takes the event off the stream and sets the mode. -/
theorem quitHaltsAndChangesNothingElse : Obligations.QuitHaltsAndChangesNothingElse := by
  unfold Obligations.QuitHaltsAndChangesNothingElse
  intro s rest hin hh
  let s₀ := s.setInputs rest
  have hstep : step s = .next (s₀.setMode (.halted .quit)) :=
    (step_cons hin).trans (congrArg Host.Outcome.next (quitEvent_of_not_halted (s := s₀) hh))
  exact ⟨_, hstep, rfl, rfl,
    ((keptExcept_setInputs s rest).mono (by decide)).trans ((keptExcept_setMode s₀ _).mono (by decide))⟩

end Sys2Proof
